-- ==== Sys2Proof/Word.lean ====
section
/-! DEFINITION. The widths of the machine's values (spec/00_scope.md R4, R6). -/

namespace Sys2Proof

/-- A file register, W or an 8-bit literal: DATA_BITS (R4). -/
abbrev Byte := BitVec 8

/-- An instruction word: INSTR_BITS (R4, R80). -/
abbrev Word14 := BitVec 14

/-- A program address: PC_BITS (R4, R23). -/
abbrev Addr13 := BitVec 13

/-- The address in CALL and GOTO: K11_BITS (R4, R84). -/
abbrev Addr11 := BitVec 11

/-- The operand `f`: F_BITS (R4, R21). -/
abbrev FileAddr := BitVec 7

/-- The operand `b`: B_BITS (R4, R82). -/
abbrev BitPos := BitVec 3

end Sys2Proof
end

