-- ==== Sys2Proof/Config.lean ====
section
/-! DEFINITION. The parameters of spec/00_scope.md R4, and the values the spec leaves free.

The rows of R4 that the source does not fix are the fields of `Params`, which State carries unchanged (log entry 29); the
rows it fixes are the widths of Word.lean, with F_BITS = 7, the width that spec/30_encoding.md R81 and R82 give the field
`f`. A free value is an opaque constant: nothing can be proved of it, so what is proved holds whatever it is (safe). -/

namespace Sys2Proof

namespace Config

/-- The number of general-purpose cells of REF84 (R35). -/
def gprCells : Nat := 68

/-- The erased program word (spec/30_encoding.md R88). -/
def erasedWord : Word14 := 0x3FFF#14

/-- RP0, the bank-select bit of STATUS (R28, R35). -/
def statusRP0 : Nat := 5

end Config

/-- The platform cells: those of the map REF84 (spec/10_state.md R35), TRISC, which TRIS 7 names (spec/43_control.md R165),
and, since R34 and spec/20_memory.md R68 leave the rest to the platform, any other, by a number. Log entry 19. -/
inductive IoName where
  | tmr0 | porta | portb | eedata | eeadr | trisa | trisb | trisc | eecon1 | eecon2
  | other (n : Nat)
  deriving DecidableEq, Repr

/-- The cell kinds of spec/10_state.md R34. An unimplemented cell carries its data address, for the fault. -/
inductive Cell where
  | pcl
  | status
  | pclath
  | intcon
  | optionReg
  | indf
  | fsr
  | gpr (n : Nat)
  | io (name : IoName)
  | unimplemented (a : Byte)
  deriving DecidableEq, Repr

/-- The configuration function `FileCell(f, STATUS)` (spec/10_state.md R34): the two instantiations of R35, or any map
as a table. R34 lets it look at bits 7 to 5 of STATUS only, so a table lists cells by the number `STATUS[7:5] ++ f`; an
unlisted number is unimplemented. Log entry 19. -/
inductive FileMap where
  | ref84
  | srcOnly
  | table (cells : List (Nat × Cell))
  deriving DecidableEq, Repr

/-- The platform predicate `irq` (spec/60_exceptions.md R183): the constant false, REF84's formula, or a request line that
the platform drives as it likes. Log entry 13. -/
inductive IrqSource where
  | never
  | ref84
  | line
  deriving DecidableEq, Repr

/-- The platform behaviour `io_read` (R35; D21): a value drawn afresh, or the level that the platform drives at the cell,
a draw where it drives none. Log entry 12. -/
inductive IoReadSource where
  | draw
  | level
  deriving DecidableEq, Repr

/-- The platform behaviour `io_write` (R35; D21): an event is recorded, or the cell also takes the value as its level. Log
entry 12. -/
inductive IoWriteEffect where
  | record
  | latch
  deriving DecidableEq, Repr

/-- Which column of the table of spec/60_exceptions.md R181 the machine follows where the table gives both: the verdict
of the model (a fault), or what the hardware does. Log entry 3. -/
inductive Treatment where
  | verdict
  | hardware
  deriving DecidableEq, Repr

/-- The parameters of R4. No step changes them. Log entries 20, 29. -/
structure Params where
  /-- PROG_WORDS (R40): implemented program words -/
  progWords : Nat
  /-- STACK_DEPTH (R27) -/
  stackDepth : Nat
  /-- RESET_VECTOR (R68) -/
  resetVector : Addr13
  /-- INT_VECTOR (R68, R186) -/
  intVector : Addr13
  /-- STATUS_C (R28): below 5, since bits 7 to 5 are the bank bits -/
  statusC : Fin 5
  /-- STATUS_DC (R28) -/
  statusDC : Fin 5
  /-- STATUS_Z (R28) -/
  statusZ : Fin 5
  /-- STATUS_PD (R28) -/
  statusPD : Fin 5
  /-- STATUS_TO (R28) -/
  statusTO : Fin 5
  /-- INTCON_GIE (R30) -/
  intconGIE : Fin 8
  /-- A_PCL, an open address of the map SRC-ONLY (R35), which reads its low 7 bits; so are the next three -/
  aPcl : Byte
  /-- A_PCLATH -/
  aPclath : Byte
  /-- A_INTCON -/
  aIntcon : Byte
  /-- A_OPTION -/
  aOption : Byte
  /-- FileCell (R34, R35) -/
  fileMap : FileMap
  /-- INCFSZ_WRITES_Z (R119) -/
  incfszWritesZ : Bool
  /-- WDT_ENABLED (R190) -/
  wdtEnabled : Bool
  /-- irq (R183) -/
  irqSource : IrqSource
  /-- io_read (R35) -/
  ioReadSource : IoReadSource
  /-- io_write (R35) -/
  ioWriteEffect : IoWriteEffect
  /-- the column of R181: no row of R4, the model's own -/
  treatment : Treatment
  deriving DecidableEq, Repr

namespace Config

/-- FREE VALUE: what the `n`-th draw at an I/O cell reads (spec/10_state.md R35, D21). Log entry 12. Safe. -/
opaque ioDraw : IoName → Nat → Byte

/-- FREE VALUE: what general-purpose cell `n` reads while nothing has written it (R41, R181: "returns an unknown value").
Log entry 7. Safe. -/
opaque ramPowerOn : Nat → Byte

/-- FREE VALUE: the stale entry a pop of the empty stack gives (R181). Log entry 5. Safe. -/
opaque staleReturn : Nat → Addr13

/-- FREE VALUE: where the program counter is after DECFSZ or INCFSZ with destination PCL (R117, R119, D20). Log entry 11. -/
opaque contestedPc : Nat → Addr13

/-- FREE VALUE: the bits TO (bit 1) and PD (bit 0) after an external reset (R210 states them for the two other resets
only). Log entry 17. Safe. -/
opaque externalResetToPd : Nat → BitVec 2

end Config

end Sys2Proof
end

