-- ==== Sys2Proof/Machine/Parameters.lean ====
section
/-! DEFINITION. The values of the parameters of spec/00_scope.md R4, and what makes parameters meaningful. -/

namespace Sys2Proof

/-- The parameters the machine starts with: R4's column REF84 in every row. `treatment` is no row of R4: the hardware's
behaviour. DESIGN CHOICE, unsafe: log entries 3, 19, 20. -/
def Config.defaultParams : Params where
  progWords := 1024
  stackDepth := 8
  resetVector := 0x0000#13
  intVector := 0x0004#13
  statusC := 0
  statusDC := 1
  statusZ := 2
  statusPD := 3
  statusTO := 4
  intconGIE := 7
  aPcl := 0x02#8
  aPclath := 0x0A#8
  aIntcon := 0x0B#8
  aOption := 0x81#8
  fileMap := .ref84
  incfszWritesZ := false
  wdtEnabled := false
  irqSource := .never
  ioReadSource := .draw
  ioWriteEffect := .record
  treatment := .hardware

/-- A map has the source's three points in bank 0 (spec/10_state.md R22, R34): STATUS at h'03', PORTA at h'05', a
general-purpose cell at h'0F'. REF84 and SRC-ONLY have them. -/
def FileMap.wf (m : FileMap) : Bool :=
  match m with
  | .ref84 | .srcOnly => true
  | .table cells =>
    cells.lookup 0x03 == some .status && cells.lookup 0x05 == some (.io .porta) &&
      match cells.lookup 0x0F with
      | some (.gpr _) => true
      | _ => false

/-- Meaningful parameters: PROG_WORDS within the program counter's reach (R4), a stack, five different flag bits (R28), a
map with the source's three points. -/
def Params.wf (p : Params) : Bool :=
  decide (p.progWords ≤ 2 ^ 13) && decide (1 ≤ p.stackDepth) &&
    decide ([p.statusC, p.statusDC, p.statusZ, p.statusPD, p.statusTO].Nodup) && p.fileMap.wf

/-- STATUS after a power-on reset: TO = PD = 1, bits 7 to 5 = 0 (spec/10_state.md R41); C, DC, Z = 0 (log entry 8). -/
def Params.resetStatus (p : Params) : Byte := (1#8 <<< p.statusTO.val) ||| (1#8 <<< p.statusPD.val)

/-- How many numbers the general-purpose cells of a map take: 68 in REF84 (R35), which has SRC-ONLY's cell too. -/
def FileMap.ramCells : FileMap → Nat
  | .ref84 | .srcOnly => Config.gprCells
  | .table cells =>
    cells.foldr
      (fun e m =>
        match e.2 with
        | .gpr n => max (n + 1) m
        | .pcl | .status | .pclath | .intcon | .optionReg | .indf | .fsr | .io _ | .unimplemented _ => m) 0

end Sys2Proof
end

