-- ==== Sys2Proof/Machine/State.lean ====
section
/-! DEFINITION. The state of the machine (spec/10_state.md R20 to R43), its stops, and the state after reset (R41). -/

namespace Sys2Proof.Machine

/-- Cells of bytes by number, such as the general-purpose cells: pairs (cell number `n` of `Gpr(n)`, byte), numbers strictly rising. An unlisted cell
holds no value (spec/10_state.md R41), so no entry can equal what an unlisted cell reads as. -/
abbrev Memory := List Host.Cell

/-- Program memory: pairs (word address, word), addresses strictly rising, no entry the erased word, which is what an
unlisted address reads as (spec/30_encoding.md R88; log entry 1). -/
abbrev ProgramMemory := List (Nat × Word14)

/-- An event recorded at a platform cell (spec/10_state.md R35, spec/20_memory.md R67). -/
inductive IoEvent where
  /-- a read, with the value drawn -/
  | read (name : IoName) (v : Byte)
  /-- a write, with the value written -/
  | write (name : IoName) (v : Byte)
  deriving DecidableEq, Repr

/-- The platform's events that act on more than a request flag. -/
inductive PlatformEvent where
  /-- a watchdog time-out (R190); no event where WDT_ENABLED is false -/
  | watchdogTimeout
  /-- the external reset pin (R210) -/
  | externalReset
  /-- a power-on reset (R210) -/
  | powerOnReset
  deriving DecidableEq, Repr

/-- All that the platform does between two instructions: any of the request flags may rise together (R183), and one event
may come with them. Log entry 14. -/
structure PlatformInput where
  /-- timer-0 overflow: T0IF is set -/
  timer0Overflow : Bool
  /-- the pin INT: INTF is set -/
  externalInterrupt : Bool
  /-- port-B change: RBIF is set -/
  portBChange : Bool
  /-- the level that EEIF takes, if it changes (data-EEPROM write) -/
  eeif : Option Bool
  /-- the level that the request line takes, if it changes -/
  irqLine : Option Bool
  /-- the I/O cells whose level changes, each with its new level (R35) -/
  ioLevels : List (IoName × Byte)
  /-- a time-out or a reset -/
  event : Option PlatformEvent
  deriving DecidableEq, Repr

/-- Nothing happens. -/
def PlatformInput.quiet : PlatformInput := ⟨false, false, false, none, none, [], none⟩

/-- The state. INVENTORY.md lists each field with the rule that names it. -/
structure State where
  /-- W (R20) -/
  w : Byte
  /-- the program counter (R23) -/
  pc : Addr13
  /-- PCLATH[4:0] (R26) -/
  pclath : BitVec 5
  /-- the return addresses held, newest first (R27) -/
  stack : List Addr13
  /-- STATUS (R28) -/
  status : Byte
  /-- INTCON (R30) -/
  intcon : Byte
  /-- the OPTION register (R31) -/
  option : Byte
  /-- FSR (R34, R39) -/
  fsr : Byte
  /-- the general-purpose cells (R34) -/
  ram : Memory
  /-- program memory (R40) -/
  prog : ProgramMemory
  /-- the watchdog timer cell (R32) -/
  wdt : Nat
  /-- the watchdog prescaler cell (R32) -/
  wdtPrescaler : Nat
  /-- the sleep state (R33) -/
  asleep : Bool
  /-- the flag EEIF that `irq` reads (R183) -/
  eeif : Bool
  /-- the platform's request line, which `irq` reads where `irqSource` is `line` (R183; log entry 13) -/
  irqLine : Bool
  /-- the levels at the I/O cells, by the number of the cell: the platform's, no core state (R35; log entry 12). An unlisted
  cell has none. -/
  ioLevels : Memory
  /-- the model's own: events at platform cells, newest first (log entry 12) -/
  ioLog : List IoEvent
  /-- the model's own: the index of the next free value (log entry 30) -/
  draws : Nat
  /-- the model's own: what the platform does at the boundaries to come, one input for each (log entry 14) -/
  inputs : List PlatformInput
  /-- the parameters of R4 (log entry 29) -/
  params : Params
  deriving DecidableEq, Repr

/-- Why a step stops: the model faults of spec/60_exceptions.md R181. None is an event on the chip; all are safe (the
model stops where the chip would do something). -/
inductive Fault where
  /-- raised at decoding: the word matches no row (R88). Both treatments. Safe. -/
  | illegalOpcode (w : Word14)
  /-- raised at fetch: the address is not below PROG_WORDS (R24). Both treatments. Safe. -/
  | fetchOutOfRange (a : Addr13)
  /-- raised by `push` on a full stack: CALL, interrupt entry (R27). Treatment `verdict`. Safe. -/
  | stackOverflow (a : Addr13)
  /-- raised by `pop` on the empty stack: RETURN, RETLW, RETFIE (R27). Treatment `verdict`. Safe. -/
  | stackUnderflow
  /-- raised by a file access to data address `a` where there is no cell (R36, R37). Treatment `verdict`. Safe. -/
  | unimplementedFile (a : Byte)
  /-- raised by a read of general-purpose cell `n` that nothing has written (R41). Treatment `verdict`. Safe. -/
  | readUnwritten (n : Nat)
  /-- raised by DECFSZ and INCFSZ with destination PCL (R117, R119) and by TRIS (R165). Treatment `verdict`. Safe. -/
  | unmodelledForm
  deriving DecidableEq, Repr

/-- Why an instruction has no meaning. -/
inductive Refusal where
  /-- raised by an arm of `exec` whose instruction has no meaning yet; no arm raises it. Safe. -/
  | notModelled (mnemonic : String)
  deriving DecidableEq, Repr

/-- The machine after a power-on reset (spec/10_state.md R41). W, C, DC, Z, FSR: DESIGN CHOICE 0 (log entry 8, unsafe);
INTCON bits 2 to 0: log entry 9; the model's own fields: log entries 12, 13, 14, 30; the parameters: log entry 29. -/
def State.reset : State where
  w := 0x00#8
  pc := Config.defaultParams.resetVector
  pclath := 0#5
  stack := []
  status := Config.defaultParams.resetStatus
  intcon := 0x00#8
  option := 0xFF#8
  fsr := 0x00#8
  ram := []
  prog := []
  wdt := 0
  wdtPrescaler := 0
  asleep := false
  eeif := false
  irqLine := false
  ioLevels := []
  ioLog := []
  draws := 0
  inputs := []
  params := Config.defaultParams

end Sys2Proof.Machine
end

