-- ==== Sys2Proof/Machine/Flags.lean ====
section
/-! DEFINITION. The bits of STATUS and INTCON, the flags an instruction writes, and the arithmetic helpers
(spec/10_state.md R28 to R30, R38; spec/40_byte_oriented.md R110). -/

namespace Sys2Proof.Machine

/-- `v` with bit `i` set to `b`. -/
def setBit (v : Byte) (i : Nat) (b : Bool) : Byte :=
  if b then v ||| (1#8 <<< i) else v &&& ~~~(1#8 <<< i)

/-- The flag C (R28). -/
def flagC (s : State) : Bool := s.status.getLsbD s.params.statusC

/-- The flag DC (R28). -/
def flagDC (s : State) : Bool := s.status.getLsbD s.params.statusDC

/-- The flag Z (R28). -/
def flagZ (s : State) : Bool := s.status.getLsbD s.params.statusZ

/-- The bit PD, active low (R28). -/
def flagPD (s : State) : Bool := s.status.getLsbD s.params.statusPD

/-- The bit TO, active low (R28). -/
def flagTO (s : State) : Bool := s.status.getLsbD s.params.statusTO

/-- The bit GIE of INTCON (R30). -/
def flagGIE (s : State) : Bool := s.intcon.getLsbD s.params.intconGIE

/-- `TO <- vTO; PD <- vPD`. -/
def setToPd (vTO vPD : Bool) (s : State) : State :=
  { s with status := setBit (setBit s.status s.params.statusTO vTO) s.params.statusPD vPD }

/-- `GIE <- b`. -/
def setGie (b : Bool) (s : State) : State :=
  { s with intcon := setBit s.intcon s.params.intconGIE b }

/-- The flags an instruction computes: `some b` is a flag it writes with `b`, `none` a flag it does not write (the flag
set S of R38; the table of R29). -/
structure FlagWrites where
  c : Option Bool
  dc : Option Bool
  z : Option Bool
  deriving DecidableEq, Repr

/-- No flag is written. -/
def noFlags : FlagWrites := ⟨none, none, none⟩

/-- Z is written: 1 when the result is zero (R28). -/
def zFlag (r : Byte) : FlagWrites := ⟨none, none, some (r == 0#8)⟩

/-- C is written. -/
def cFlag (b : Bool) : FlagWrites := ⟨some b, none, none⟩

/-- The byte `v` of STATUS with one computed flag. -/
def putFlag (i : Nat) (b : Option Bool) (v : Byte) : Byte :=
  match b with
  | some b => setBit v i b
  | none => v

/-- The instruction writes the flags it computes. -/
def applyFlags (fl : FlagWrites) (s : State) : State :=
  { s with
    status :=
      putFlag s.params.statusZ fl.z (putFlag s.params.statusDC fl.dc (putFlag s.params.statusC fl.c s.status)) }

/-- The bit `1 << i` where a flag is in the set S, else 0. -/
def flagBit (i : Nat) (b : Option Bool) : Byte := if b.isSome then 1#8 <<< i else 0#8

/-- The bits of STATUS a file write does not change: TO, PD and the flags in S (R38). -/
def protectedBits (p : Params) (fl : FlagWrites) : Byte :=
  (1#8 <<< p.statusTO.val) ||| (1#8 <<< p.statusPD.val) |||
    flagBit p.statusC fl.c ||| flagBit p.statusDC fl.dc ||| flagBit p.statusZ fl.z

/-- `StatusWrite(v)` of R38 up to the flags in S, which `applyFlags` writes after it (log entry 28). -/
def statusWrite (fl : FlagWrites) (v : Byte) (s : State) : State :=
  { s with status := (s.status &&& protectedBits s.params fl) ||| (v &&& ~~~protectedBits s.params fl) }

/-- A result with the three arithmetic flags. -/
structure AluResult where
  r : Byte
  c : Bool
  dc : Bool
  z : Bool
  deriving DecidableEq, Repr

/-- `Add8(a, b)` (R110 (c)). -/
def add8 (a b : Byte) : AluResult :=
  let s9 : BitVec 9 := a.setWidth 9 + b.setWidth 9
  let s5 : BitVec 5 := (a.extractLsb' 0 4).setWidth 5 + (b.extractLsb' 0 4).setWidth 5
  let r : Byte := s9.extractLsb' 0 8
  ⟨r, s9.getLsbD 8, s5.getLsbD 4, r == 0#8⟩

/-- `Sub8(a, b)`, `a - b` by adding the two's complement of `b` (R110 (c)). -/
def sub8 (a b : Byte) : AluResult :=
  let s9 : BitVec 9 := a.setWidth 9 + (~~~b).setWidth 9 + 1#9
  let s5 : BitVec 5 := (a.extractLsb' 0 4).setWidth 5 + ((~~~b).extractLsb' 0 4).setWidth 5 + 1#5
  let r : Byte := s9.extractLsb' 0 8
  ⟨r, s9.getLsbD 8, s5.getLsbD 4, r == 0#8⟩

/-- C, DC and Z are written from an arithmetic result. -/
def aluFlags (a : AluResult) : FlagWrites := ⟨some a.c, some a.dc, some a.z⟩

/-- `v[6:0] ++ cin`: rotation left through the carry (R124). -/
def rotateLeft (v : Byte) (cin : Bool) : Byte := v.extractLsb' 0 7 ++ BitVec.ofBool cin

/-- `cin ++ v[7:1]`: rotation right through the carry (R125). -/
def rotateRight (v : Byte) (cin : Bool) : Byte := BitVec.ofBool cin ++ v.extractLsb' 1 7

/-- `v[3:0] ++ v[7:4]` (R127). -/
def swapNibbles (v : Byte) : Byte := v.extractLsb' 0 4 ++ v.extractLsb' 4 4

/-- `1 << b` (R141, R142). -/
def bitMask (b : BitPos) : Byte := 1#8 <<< b.toNat

end Sys2Proof.Machine
end

