-- ==== Sys2Proof/Machine/Ops.lean ====
section
/-! DEFINITION. The named operations over memory, the stack, platform cells, the program counter, and interrupt entry
and return. An operation that can raise a model fault answers `Except Fault`. -/

namespace Sys2Proof.Machine

/-! ### Lists of cells in one canonical form -/

/-- The entry at key `a`. -/
def lookupAt {α : Type} (a : Nat) : List (Nat × α) → Option α
  | [] => none
  | (b, x) :: rest => if a = b then some x else lookupAt a rest

/-- The list with `v` at key `a`, keys still rising. -/
def insertAt {α : Type} (a : Nat) (v : α) : List (Nat × α) → List (Nat × α)
  | [] => [(a, v)]
  | (b, x) :: rest =>
    if a < b then (a, v) :: (b, x) :: rest
    else if a = b then (a, v) :: rest
    else (b, x) :: insertAt a v rest

/-- The list without key `a`. -/
def removeAt {α : Type} (a : Nat) : List (Nat × α) → List (Nat × α)
  | [] => []
  | (b, x) :: rest => if a = b then rest else (b, x) :: removeAt a rest

/-- Whether every key is above `lo` and the keys rise strictly. -/
def risingFrom {α : Type} (lo : Nat) : List (Nat × α) → Bool
  | [] => true
  | (b, _) :: rest => decide (lo ≤ b) && risingFrom (b + 1) rest

/-- The canonical form of the general-purpose cells, `cells` of them: numbers strictly rising, each the number of a cell. -/
def Memory.wf (cells : Nat) (m : Memory) : Bool := risingFrom 0 m && m.all fun e => decide (e.1 < cells)

/-- The value cell `n` holds: `none` where nothing has written it (spec/10_state.md R41). -/
def Memory.load (m : Memory) (n : Nat) : Option Byte := lookupAt n m

/-- `ram[n] <- v` (R37). -/
def Memory.store (m : Memory) (n : Nat) (v : Byte) : Memory := insertAt n v m

/-- The canonical form of program memory of `words` words: addresses strictly rising and implemented, no erased word
listed. -/
def ProgramMemory.wf (words : Nat) (m : ProgramMemory) : Bool :=
  risingFrom 0 m && m.all fun e => decide (e.1 < words) && e.2 != Config.erasedWord

/-- The word at a program address (R61); an unlisted address holds the erased word (log entry 1). -/
def ProgramMemory.load (m : ProgramMemory) (a : Nat) : Word14 := (lookupAt a m).getD Config.erasedWord

/-- Program memory with word `w` at `a`; no instruction does this, only the loading of a program. -/
def ProgramMemory.store (m : ProgramMemory) (a : Nat) (w : Word14) : ProgramMemory :=
  if w = Config.erasedWord then removeAt a m else insertAt a w m

/-- `ProgRead(a)` (R61). -/
def progRead (a : Addr13) (s : State) : Word14 := s.prog.load a.toNat

/-! ### General-purpose cells and platform cells -/

/-- Read `ram[n]` (R36). A cell that nothing has written: the fault `ReadUnwritten` (R41), or the hardware's unknown
value (R181), which is free. Log entry 7. -/
def readGpr (n : Nat) (s : State) : Except Fault (Byte × State) :=
  match s.ram.load n with
  | some v => .ok (v, s)
  | none =>
    match s.params.treatment with
    | .verdict => .error (.readUnwritten n)
    | .hardware => .ok (Config.ramPowerOn n, s)

/-- `ram[n] <- v` (R37). -/
def writeGpr (n : Nat) (v : Byte) (s : State) : State := { s with ram := s.ram.store n v }

/-- The number of an I/O cell, under which its level stands. -/
def ioNumber (name : IoName) : Nat :=
  match name with
  | .tmr0 => 0
  | .porta => 1
  | .portb => 2
  | .eedata => 3
  | .eeadr => 4
  | .trisa => 5
  | .trisb => 6
  | .trisc => 7
  | .eecon1 => 8
  | .eecon2 => 9
  | .other n => 10 + n

/-- What a read of an I/O cell gives, as the parameter `io_read` says (R35). Log entry 12. -/
def ioValue (name : IoName) (s : State) : Byte :=
  match s.params.ioReadSource with
  | .draw => Config.ioDraw name s.draws
  | .level => (s.ioLevels.load (ioNumber name)).getD (Config.ioDraw name s.draws)

/-- `io_read(name)`: a value of the platform's, recorded (R35, R67). Log entry 12. -/
def ioRead (name : IoName) (s : State) : Byte × State :=
  (ioValue name s, { s with draws := s.draws + 1, ioLog := .read name (ioValue name s) :: s.ioLog })

/-- The levels after a write, as the parameter `io_write` says (R35). -/
def ioLevelsAfter (name : IoName) (v : Byte) (s : State) : Memory :=
  match s.params.ioWriteEffect with
  | .record => s.ioLevels
  | .latch => s.ioLevels.store (ioNumber name) v

/-- `io_write(name, v)`: an output event, no change of core state (R35). -/
def ioWrite (name : IoName) (v : Byte) (s : State) : State :=
  { s with ioLog := .write name v :: s.ioLog, ioLevels := ioLevelsAfter name v s }

/-! ### The program counter and the stack -/

/-- `skip`: the next instruction is not executed (R7, R24). -/
def skip (s : State) : State := { s with pc := s.pc + 1#13 }

/-- The target of CALL and GOTO, `PCLATH[4:3] ++ k` (R170, R171). -/
def jumpTarget (k : Addr11) (s : State) : Addr13 := s.pclath.extractLsb' 3 2 ++ k

/-- A write of `v` to PCL: `pc <- PCLATH[4:0] ++ v` (R25). -/
def writePcl (v : Byte) (s : State) : State := { s with pc := s.pclath ++ v }

/-- `Push(a)` (R27). A full stack: the fault `StackOverflow`, or the hardware's loss of the oldest entry (R27, R181).
Log entry 4. -/
def push (a : Addr13) (s : State) : Except Fault State :=
  if s.stack.length < s.params.stackDepth then .ok { s with stack := a :: s.stack }
  else
    match s.params.treatment with
    | .verdict => .error (.stackOverflow a)
    | .hardware => .ok { s with stack := (a :: s.stack).take s.params.stackDepth }

/-- `Pop()` (R27). The empty stack: the fault `StackUnderflow`, or the hardware's stale entry (R181), which is free.
Log entry 5. -/
def pop (s : State) : Except Fault (Addr13 × State) :=
  match s.stack with
  | a :: rest => .ok (a, { s with stack := rest })
  | [] =>
    match s.params.treatment with
    | .verdict => .error .stackUnderflow
    | .hardware => .ok (Config.staleReturn s.draws, { s with draws := s.draws + 1 })

/-- `pc <- Pop()`: what RETURN, RETLW and RETFIE share. -/
def popPc (s : State) : Except Fault State :=
  match pop s with
  | .error e => .error e
  | .ok (a, s') => .ok { s' with pc := a }

/-! ### Interrupt entry and return -/

/-- Interrupt entry: `GIE <- 0; Push(pc); pc <- INT_VECTOR`; nothing else is saved (spec/60_exceptions.md R186). -/
def interruptEntry (s : State) : Except Fault State :=
  match push s.pc (setGie false s) with
  | .error e => .error e
  | .ok s' => .ok { s' with pc := s'.params.intVector }

/-- Return from interrupt: `pc <- Pop(); GIE <- 1` (R162, R187). -/
def interruptReturn (s : State) : Except Fault State :=
  match popPc s with
  | .error e => .error e
  | .ok s' => .ok (setGie true s')

/-- The outcome of a meaning from an operation that can fault. -/
def toOutcome (x : Except Fault State) : Host.Outcome State Fault Refusal :=
  match x with
  | .ok s => .next s
  | .error e => .fault e

end Sys2Proof.Machine
end

