-- ==== Sys2Proof/Syntax.lean ====
section
/-! DEFINITION. The instructions: one constructor for each instruction of spec/30_encoding.md R87. The three rows of
TRIS are one instruction with a 3-bit operand (R87, R165), whose values WellFormed restricts. Don't-care bits (R89) are
not kept. -/

namespace Sys2Proof

/-- The destination selector `d` (spec/00_scope.md R8, R85): 0 is W, 1 is the file register. -/
inductive Dest where
  | w
  | f
  deriving DecidableEq, Repr

/-- The instruction set. -/
inductive Instr where
  -- byte-oriented (spec/40_byte_oriented.md)
  | addwf (f : FileAddr) (d : Dest)
  | andwf (f : FileAddr) (d : Dest)
  | clrf (f : FileAddr)
  | clrw
  | comf (f : FileAddr) (d : Dest)
  | decf (f : FileAddr) (d : Dest)
  | decfsz (f : FileAddr) (d : Dest)
  | incf (f : FileAddr) (d : Dest)
  | incfsz (f : FileAddr) (d : Dest)
  | iorwf (f : FileAddr) (d : Dest)
  | movf (f : FileAddr) (d : Dest)
  | movwf (f : FileAddr)
  | nop
  | rlf (f : FileAddr) (d : Dest)
  | rrf (f : FileAddr) (d : Dest)
  | subwf (f : FileAddr) (d : Dest)
  | swapf (f : FileAddr) (d : Dest)
  | xorwf (f : FileAddr) (d : Dest)
  -- bit-oriented (spec/41_bit_oriented.md)
  | bcf (f : FileAddr) (b : BitPos)
  | bsf (f : FileAddr) (b : BitPos)
  | btfsc (f : FileAddr) (b : BitPos)
  | btfss (f : FileAddr) (b : BitPos)
  -- literal (spec/42_literal.md)
  | addlw (k : Byte)
  | andlw (k : Byte)
  | iorlw (k : Byte)
  | movlw (k : Byte)
  | sublw (k : Byte)
  | xorlw (k : Byte)
  | retlw (k : Byte)
  -- control (spec/43_control.md)
  | clrwdt
  | option
  | retfie
  | ret
  | sleep
  | tris (f : BitVec 3)
  -- CALL and GOTO (spec/44_call_goto.md)
  | call (k : Addr11)
  | goto (k : Addr11)
  deriving DecidableEq, Repr

/-- The pseudo-instruction MOVFW f is MOVF f,0 (spec/30_encoding.md R96). -/
def movfw (f : FileAddr) : Instr := .movf f .w

end Sys2Proof
end

