-- ==== Sys2Proof/Machine/Operands.lean ====
section
/-! DEFINITION. The file operand: `FileCell`, `FileRead`, `FileWrite`, indirect addressing and the destination
(spec/10_state.md R34 to R39; spec/40_byte_oriented.md R110), and the shared shapes of the instructions that use it. -/

namespace Sys2Proof.Machine

/-! ### From the operand to the cell -/

/-- The table of REF84 (R35) at an 8-bit data address; bit 7 is the bank. -/
def ref84Cell (a : Byte) : Cell :=
  let bank1 : Bool := a.getLsbD 7
  let lo : Nat := (a.extractLsb' 0 7).toNat
  if lo = 0x00 then .indf
  else if lo = 0x01 then (if bank1 then .optionReg else .io .tmr0)
  else if lo = 0x02 then .pcl
  else if lo = 0x03 then .status
  else if lo = 0x04 then .fsr
  else if lo = 0x05 then (if bank1 then .io .trisa else .io .porta)
  else if lo = 0x06 then (if bank1 then .io .trisb else .io .portb)
  else if lo = 0x07 then .unimplemented a
  else if lo = 0x08 then (if bank1 then .io .eecon1 else .io .eedata)
  else if lo = 0x09 then (if bank1 then .io .eecon2 else .io .eeadr)
  else if lo = 0x0A then .pclath
  else if lo = 0x0B then .intcon
  else if lo ≤ 0x4F then .gpr (lo - 0x0C)
  else .unimplemented a

/-- SRC-ONLY (R35): the source's three points, then the four registers at their open addresses, of which the operand holds
the low 7 bits, since there is no bank; no INDF, no FSR. Where two addresses agree the first listed has it (log entry 19). -/
def srcOnlyCell (p : Params) (f : FileAddr) : Cell :=
  if f = 0x03#7 then .status
  else if f = 0x05#7 then .io .porta
  else if f = 0x0F#7 then .gpr 3
  else if f = p.aPcl.setWidth 7 then .pcl
  else if f = p.aPclath.setWidth 7 then .pclath
  else if f = p.aIntcon.setWidth 7 then .intcon
  else if f = p.aOption.setWidth 7 then .optionReg
  else .unimplemented (f.setWidth 8)

/-- The cell that a table lists at a number; an unlisted one is unimplemented (log entry 19). -/
def tableCell (cells : List (Nat × Cell)) (key : BitVec 10) : Cell :=
  (lookupAt key.toNat cells).getD (.unimplemented (key.setWidth 8))

/-- `FileCell(f, STATUS)` (R34): in REF84 the cell at the data address `STATUS[5] ++ f`. -/
def fileCell (f : FileAddr) (s : State) : Cell :=
  match s.params.fileMap with
  | .ref84 => ref84Cell (BitVec.ofBool (s.status.getLsbD Config.statusRP0) ++ f)
  | .srcOnly => srcOnlyCell s.params f
  | .table cells => tableCell cells (s.status.extractLsb' 5 3 ++ f)

/-- The cell that INDF stands for: in REF84 the cell at the data address FSR (R39; log entry 23). SRC-ONLY has no INDF; a
table is read as with STATUS bits 7 and 6 at 0 and bit 7 of FSR for the bank (log entry 19). -/
def indirectCell (s : State) : Cell :=
  match s.params.fileMap with
  | .ref84 => ref84Cell s.fsr
  | .srcOnly => .unimplemented s.fsr
  | .table cells => tableCell cells (s.fsr.setWidth 10)

/-- The cell an access through `f` reaches: the cell of the operand, or, where that is INDF, the cell INDF stands for
(R39). INDF reached through itself stays INDF. -/
def effCell (f : FileAddr) (s : State) : Cell :=
  if fileCell f s = .indf then indirectCell s else fileCell f s

/-! ### Reading and writing -/

/-- Read a cell (R36). INDF here is INDF reached through itself, which reads h'00' (R39). An unimplemented cell: the
fault `UnimplementedFile`, or h'00' as on the hardware (R36; log entry 6). -/
def readCell (c : Cell) (s : State) : Except Fault (Byte × State) :=
  match c with
  | .pcl => .ok (s.pc.extractLsb' 0 8, s)
  | .status => .ok (s.status, s)
  | .pclath => .ok (s.pclath.setWidth 8, s)
  | .intcon => .ok (s.intcon, s)
  | .optionReg => .ok (s.option, s)
  | .fsr => .ok (s.fsr, s)
  | .indf => .ok (0x00#8, s)
  | .gpr n => readGpr n s
  | .io name => .ok (ioRead name s)
  | .unimplemented a =>
    match s.params.treatment with
    | .verdict => .error (.unimplementedFile a)
    | .hardware => .ok (0x00#8, s)

/-- Write a cell (R37), for an instruction that computes the flags `fl`. INDF reached through itself: nothing (R39). An
unimplemented cell: the fault, or nothing as on the hardware (R37; log entry 6). -/
def writeCell (fl : FlagWrites) (c : Cell) (v : Byte) (s : State) : Except Fault State :=
  match c with
  | .pcl => .ok (writePcl v s)
  | .status => .ok (statusWrite fl v s)
  | .pclath => .ok { s with pclath := v.extractLsb' 0 5 }
  | .intcon => .ok { s with intcon := v }
  | .optionReg => .ok { s with option := v }
  | .fsr => .ok { s with fsr := v }
  | .indf => .ok s
  | .gpr n => .ok (writeGpr n v s)
  | .io name => .ok (ioWrite name v s)
  | .unimplemented a =>
    match s.params.treatment with
    | .verdict => .error (.unimplementedFile a)
    | .hardware => .ok s

/-- `F[f]`: `FileRead(f)` (R36). -/
def fileRead (f : FileAddr) (s : State) : Except Fault (Byte × State) := readCell (effCell f s) s

/-- `F[f] <- v`: `FileWrite(f, v)` (R37), for an instruction that computes the flags `fl` (R38). -/
def fileWrite (fl : FlagWrites) (f : FileAddr) (v : Byte) (s : State) : Except Fault State :=
  writeCell fl (effCell f s) v s

/-- `dest(d, f) <- r` (R110 (b)). -/
def writeDest (fl : FlagWrites) (d : Dest) (f : FileAddr) (r : Byte) (s : State) : Except Fault State :=
  match d with
  | .w => .ok { s with w := r }
  | .f => fileWrite fl f r s

/-! ### Shared shapes of the instructions with a file operand -/

/-- Write a result, then the flags (R110 (b)). -/
def writeResult (d : Dest) (f : FileAddr) (r : Byte) (fl : FlagWrites) (s : State) : Except Fault State :=
  match writeDest fl d f r s with
  | .error e => .error e
  | .ok s' => .ok (applyFlags fl s')

/-- The template of R110: read `F[f]`, compute from it, W and C, write the destination, write the flags. -/
def byteOp (f : FileAddr) (d : Dest) (op : Byte → Byte → Bool → Byte × FlagWrites) (s : State) : Except Fault State :=
  match fileRead f s with
  | .error e => .error e
  | .ok (v, s') => writeResult d f (op v s'.w (flagC s')).1 (op v s'.w (flagC s')).2 s'

/-- DECFSZ and INCFSZ with destination PCL: the fault `UnmodelledForm`, or, on the hardware, a program counter that
nothing states (R117, R119, D20; log entry 11). -/
def contestedPcWrite (fl : FlagWrites) (s : State) : Except Fault State :=
  match s.params.treatment with
  | .verdict => .error .unmodelledForm
  | .hardware => .ok { applyFlags fl s with pc := Config.contestedPc s.draws, draws := s.draws + 1 }

/-- The shape of DECFSZ and INCFSZ (R117, R119): the result of `op`, then a skip when it is zero. -/
def skipOp (f : FileAddr) (d : Dest) (op : Byte → Byte × FlagWrites) (s : State) : Except Fault State :=
  if d = .f ∧ fileCell f s = .pcl then contestedPcWrite (op (s.pc.extractLsb' 0 8)).2 s
  else
    match fileRead f s with
    | .error e => .error e
    | .ok (v, s') =>
      match writeResult d f (op v).1 (op v).2 s' with
      | .error e => .error e
      | .ok s'' => .ok (if (op v).1 = 0#8 then skip s'' else s'')

/-- The shape of BCF and BSF (R140): read the whole register, write it back changed; no flag. -/
def bitOp (f : FileAddr) (op : Byte → Byte) (s : State) : Except Fault State :=
  match fileRead f s with
  | .error e => .error e
  | .ok (v, s') => fileWrite noFlags f (op v) s'

/-- The shape of BTFSC and BTFSS (R140): skip when bit `b` of the register is `x`. -/
def testOp (f : FileAddr) (b : BitPos) (x : Bool) (s : State) : Except Fault State :=
  match fileRead f s with
  | .error e => .error e
  | .ok (v, s') => .ok (if v.getLsbD b.toNat = x then skip s' else s')

end Sys2Proof.Machine
end

