-- ==== Sys2Proof/Machine/BitOriented.lean ====
section
/-! DEFINITION. The bit-oriented instructions (spec/41_bit_oriented.md R140 to R144). -/

namespace Sys2Proof.Machine

/-- BCF (R141): `F[f] <- F[f] & ~(1 << b)`. -/
def execBcf (f : FileAddr) (b : BitPos) (s : State) : Host.Outcome State Fault Refusal :=
  toOutcome (bitOp f (fun v => v &&& ~~~bitMask b) s)

/-- BSF (R142): `F[f] <- F[f] | (1 << b)`. -/
def execBsf (f : FileAddr) (b : BitPos) (s : State) : Host.Outcome State Fault Refusal :=
  toOutcome (bitOp f (fun v => v ||| bitMask b) s)

/-- BTFSC (R143): skip when the bit is 0. -/
def execBtfsc (f : FileAddr) (b : BitPos) (s : State) : Host.Outcome State Fault Refusal :=
  toOutcome (testOp f b false s)

/-- BTFSS (R144): skip when the bit is 1. -/
def execBtfss (f : FileAddr) (b : BitPos) (s : State) : Host.Outcome State Fault Refusal :=
  toOutcome (testOp f b true s)

end Sys2Proof.Machine
end

