-- ==== Sys2Proof/Machine/ByteOriented.lean ====
section
/-! DEFINITION. The byte-oriented instructions (spec/40_byte_oriented.md R110 to R128). -/

namespace Sys2Proof.Machine

/-- ADDWF (R111): `F[f] + W`; C, DC, Z. -/
def execAddwf (f : FileAddr) (d : Dest) (s : State) : Host.Outcome State Fault Refusal :=
  toOutcome (byteOp f d (fun v w _ => ((add8 v w).r, aluFlags (add8 v w))) s)

/-- ANDWF (R112): `W & F[f]`; Z. -/
def execAndwf (f : FileAddr) (d : Dest) (s : State) : Host.Outcome State Fault Refusal :=
  toOutcome (byteOp f d (fun v w _ => (w &&& v, zFlag (w &&& v))) s)

/-- CLRF (R113): `F[f] <- 0; Z <- 1`; the register is not read (R66). -/
def execClrf (f : FileAddr) (s : State) : Host.Outcome State Fault Refusal :=
  toOutcome (writeResult .f f 0x00#8 (zFlag 0x00#8) s)

/-- CLRW (R114): `W <- 0; Z <- 1`. -/
def execClrw (s : State) : Host.Outcome State Fault Refusal :=
  .next (applyFlags (zFlag 0x00#8) { s with w := 0x00#8 })

/-- COMF (R115): `~F[f]`; Z. -/
def execComf (f : FileAddr) (d : Dest) (s : State) : Host.Outcome State Fault Refusal :=
  toOutcome (byteOp f d (fun v _ _ => (~~~v, zFlag (~~~v))) s)

/-- DECF (R116): `F[f] - 1`; Z. -/
def execDecf (f : FileAddr) (d : Dest) (s : State) : Host.Outcome State Fault Refusal :=
  toOutcome (byteOp f d (fun v _ _ => (v - 1#8, zFlag (v - 1#8))) s)

/-- DECFSZ (R117): `F[f] - 1`, then a skip when the result is zero; no flag. -/
def execDecfsz (f : FileAddr) (d : Dest) (s : State) : Host.Outcome State Fault Refusal :=
  toOutcome (skipOp f d (fun v => (v - 1#8, noFlags)) s)

/-- INCF (R118): `F[f] + 1`; Z. -/
def execIncf (f : FileAddr) (d : Dest) (s : State) : Host.Outcome State Fault Refusal :=
  toOutcome (byteOp f d (fun v _ _ => (v + 1#8, zFlag (v + 1#8))) s)

/-- INCFSZ (R119): `F[f] + 1`, then a skip when the result is zero; Z only where INCFSZ_WRITES_Z (log entry 21). -/
def execIncfsz (f : FileAddr) (d : Dest) (s : State) : Host.Outcome State Fault Refusal :=
  toOutcome (skipOp f d (fun v => (v + 1#8, if s.params.incfszWritesZ then zFlag (v + 1#8) else noFlags)) s)

/-- IORWF (R120): `W | F[f]`; Z. -/
def execIorwf (f : FileAddr) (d : Dest) (s : State) : Host.Outcome State Fault Refusal :=
  toOutcome (byteOp f d (fun v w _ => (w ||| v, zFlag (w ||| v))) s)

/-- MOVF (R121): `F[f]`; Z. -/
def execMovf (f : FileAddr) (d : Dest) (s : State) : Host.Outcome State Fault Refusal :=
  toOutcome (byteOp f d (fun v _ _ => (v, zFlag v)) s)

/-- MOVWF (R122): `F[f] <- W`; the register is not read (R66); no flag. -/
def execMovwf (f : FileAddr) (s : State) : Host.Outcome State Fault Refusal :=
  toOutcome (fileWrite noFlags f s.w s)

/-- NOP (R123): nothing. -/
def execNop (s : State) : Host.Outcome State Fault Refusal := .next s

/-- RLF (R124): rotation left through the carry; C. -/
def execRlf (f : FileAddr) (d : Dest) (s : State) : Host.Outcome State Fault Refusal :=
  toOutcome (byteOp f d (fun v _ cin => (rotateLeft v cin, cFlag (v.getLsbD 7))) s)

/-- RRF (R125): rotation right through the carry; C. -/
def execRrf (f : FileAddr) (d : Dest) (s : State) : Host.Outcome State Fault Refusal :=
  toOutcome (byteOp f d (fun v _ cin => (rotateRight v cin, cFlag (v.getLsbD 0))) s)

/-- SUBWF (R126): `F[f] - W`; C, DC, Z. -/
def execSubwf (f : FileAddr) (d : Dest) (s : State) : Host.Outcome State Fault Refusal :=
  toOutcome (byteOp f d (fun v w _ => ((sub8 v w).r, aluFlags (sub8 v w))) s)

/-- SWAPF (R127): the nibbles exchanged; no flag. -/
def execSwapf (f : FileAddr) (d : Dest) (s : State) : Host.Outcome State Fault Refusal :=
  toOutcome (byteOp f d (fun v _ _ => (swapNibbles v, noFlags)) s)

/-- XORWF (R128): `W ^ F[f]`; Z. -/
def execXorwf (f : FileAddr) (d : Dest) (s : State) : Host.Outcome State Fault Refusal :=
  toOutcome (byteOp f d (fun v w _ => (w ^^^ v, zFlag (w ^^^ v))) s)

end Sys2Proof.Machine
end

