-- ==== Sys2Proof/Machine/CallGoto.lean ====
section
/-! DEFINITION. CALL and GOTO (spec/44_call_goto.md R170 to R172). -/

namespace Sys2Proof.Machine

/-- CALL (R170): `Push(pc); pc <- PCLATH[4:3] ++ k`. -/
def execCall (k : Addr11) (s : State) : Host.Outcome State Fault Refusal :=
  match push s.pc s with
  | .error e => .fault e
  | .ok s' => .next { s' with pc := jumpTarget k s' }

/-- GOTO (R171): `pc <- PCLATH[4:3] ++ k`. -/
def execGoto (k : Addr11) (s : State) : Host.Outcome State Fault Refusal :=
  .next { s with pc := jumpTarget k s }

end Sys2Proof.Machine
end

