-- ==== Sys2Proof/Machine/Control.lean ====
section
/-! DEFINITION. The control instructions (spec/43_control.md R160 to R166). -/

namespace Sys2Proof.Machine

/-- CLRWDT (R160): both watchdog cells cleared, TO and PD set. -/
def execClrwdt (s : State) : Host.Outcome State Fault Refusal :=
  .next (setToPd true true { s with wdt := 0, wdtPrescaler := 0 })

/-- OPTION (R161): `OPTION <- W`. -/
def execOption (s : State) : Host.Outcome State Fault Refusal :=
  .next { s with option := s.w }

/-- RETFIE (R162): `pc <- Pop(); GIE <- 1`. -/
def execRetfie (s : State) : Host.Outcome State Fault Refusal :=
  toOutcome (interruptReturn s)

/-- RETURN (R163): `pc <- Pop()`. -/
def execRet (s : State) : Host.Outcome State Fault Refusal :=
  toOutcome (popPc s)

/-- SLEEP (R164): PD cleared, TO set, both watchdog cells cleared, the core asleep. -/
def execSleep (s : State) : Host.Outcome State Fault Refusal :=
  .next { setToPd true false { s with wdt := 0, wdtPrescaler := 0 } with asleep := true }

/-- The data-direction register that the operand of TRIS names: TRISA, TRISB, TRISC for 5, 6, 7 (R165). -/
def trisRegister (f : BitVec 3) : Option IoName :=
  if f = 5#3 then some .trisa
  else if f = 6#3 then some .trisb
  else if f = 7#3 then some .trisc
  else none

/-- TRIS (R165): the fault `UnmodelledForm`, or `io_write(TRISx, W)`, the hardware's copy of W into the data-direction
register as R165 tells a reader who admits it to model it in REF84. DESIGN CHOICE (log entry 10): the write is the same
output event under every file map, SRC-ONLY among them, which has no TRIS cell. No word decodes to another operand (R87). -/
def execTris (f : BitVec 3) (s : State) : Host.Outcome State Fault Refusal :=
  match s.params.treatment, trisRegister f with
  | .hardware, some name => .next (ioWrite name s.w s)
  | .hardware, none => .fault .unmodelledForm
  | .verdict, _ => .fault .unmodelledForm

end Sys2Proof.Machine
end

