-- ==== Sys2Proof/Machine/Literal.lean ====
section
/-! DEFINITION. The literal instructions (spec/42_literal.md R150 to R157). -/

namespace Sys2Proof.Machine

/-- The template of R150: `W <- r`, then the flags, written directly. -/
def writeW (r : Byte) (fl : FlagWrites) (s : State) : State := applyFlags fl { s with w := r }

/-- ADDLW (R151): `W + k`; C, DC, Z. -/
def execAddlw (k : Byte) (s : State) : Host.Outcome State Fault Refusal :=
  .next (writeW (add8 s.w k).r (aluFlags (add8 s.w k)) s)

/-- ANDLW (R152): `W & k`; Z. -/
def execAndlw (k : Byte) (s : State) : Host.Outcome State Fault Refusal :=
  .next (writeW (s.w &&& k) (zFlag (s.w &&& k)) s)

/-- IORLW (R153): `W | k`; Z. -/
def execIorlw (k : Byte) (s : State) : Host.Outcome State Fault Refusal :=
  .next (writeW (s.w ||| k) (zFlag (s.w ||| k)) s)

/-- MOVLW (R154): `W <- k`; no flag. -/
def execMovlw (k : Byte) (s : State) : Host.Outcome State Fault Refusal :=
  .next (writeW k noFlags s)

/-- SUBLW (R155): `k - W`; C, DC, Z. -/
def execSublw (k : Byte) (s : State) : Host.Outcome State Fault Refusal :=
  .next (writeW (sub8 k s.w).r (aluFlags (sub8 k s.w)) s)

/-- XORLW (R156): `W ^ k`; Z. -/
def execXorlw (k : Byte) (s : State) : Host.Outcome State Fault Refusal :=
  .next (writeW (s.w ^^^ k) (zFlag (s.w ^^^ k)) s)

/-- RETLW (R157): `W <- k; pc <- Pop()`. -/
def execRetlw (k : Byte) (s : State) : Host.Outcome State Fault Refusal :=
  toOutcome (popPc { s with w := k })

end Sys2Proof.Machine
end

