-- ==== Sys2Proof/Decode.lean ====
section
/-! DEFINITION. The opcode map of spec/30_encoding.md R87, the decoder it defines, and the encoder.

All bit patterns are the spec's general knowledge (G1, G2; log entry 22). -/

namespace Sys2Proof

/-- One row of the opcode map: a word `w` is the row's when `w & mask = pattern`; `build` reads its operand fields. -/
structure OpcodeRow where
  mask : Word14
  pattern : Word14
  build : Word14 → Instr

/-- `f = w[6:0]` (R81, R82). -/
def fileField (w : Word14) : FileAddr := w.extractLsb' 0 7

/-- `d = w[7]` (R81). -/
def destField (w : Word14) : Dest := if w.getLsbD 7 then .f else .w

/-- `b = w[9:7]` (R82). -/
def bitField (w : Word14) : BitPos := w.extractLsb' 7 3

/-- `k = w[7:0]` (R83). -/
def literalField (w : Word14) : Byte := w.extractLsb' 0 8

/-- `k = w[10:0]` (R84). -/
def addressField (w : Word14) : Addr11 := w.extractLsb' 0 11

/-- The 3-bit operand of TRIS, `w[2:0]` (R83). -/
def trisField (w : Word14) : BitVec 3 := w.extractLsb' 0 3

/-- The byte-oriented rows of R87. -/
def byteRows : List OpcodeRow :=
  [ ⟨0x3F00#14, 0x0700#14, fun w => .addwf (fileField w) (destField w)⟩,
    ⟨0x3F00#14, 0x0500#14, fun w => .andwf (fileField w) (destField w)⟩,
    ⟨0x3F80#14, 0x0180#14, fun w => .clrf (fileField w)⟩,
    ⟨0x3F80#14, 0x0100#14, fun _ => .clrw⟩,
    ⟨0x3F00#14, 0x0900#14, fun w => .comf (fileField w) (destField w)⟩,
    ⟨0x3F00#14, 0x0300#14, fun w => .decf (fileField w) (destField w)⟩,
    ⟨0x3F00#14, 0x0B00#14, fun w => .decfsz (fileField w) (destField w)⟩,
    ⟨0x3F00#14, 0x0A00#14, fun w => .incf (fileField w) (destField w)⟩,
    ⟨0x3F00#14, 0x0F00#14, fun w => .incfsz (fileField w) (destField w)⟩,
    ⟨0x3F00#14, 0x0400#14, fun w => .iorwf (fileField w) (destField w)⟩,
    ⟨0x3F00#14, 0x0800#14, fun w => .movf (fileField w) (destField w)⟩,
    ⟨0x3F80#14, 0x0080#14, fun w => .movwf (fileField w)⟩,
    ⟨0x3F9F#14, 0x0000#14, fun _ => .nop⟩,
    ⟨0x3F00#14, 0x0D00#14, fun w => .rlf (fileField w) (destField w)⟩,
    ⟨0x3F00#14, 0x0C00#14, fun w => .rrf (fileField w) (destField w)⟩,
    ⟨0x3F00#14, 0x0200#14, fun w => .subwf (fileField w) (destField w)⟩,
    ⟨0x3F00#14, 0x0E00#14, fun w => .swapf (fileField w) (destField w)⟩,
    ⟨0x3F00#14, 0x0600#14, fun w => .xorwf (fileField w) (destField w)⟩ ]

/-- The bit-oriented rows of R87. -/
def bitRows : List OpcodeRow :=
  [ ⟨0x3C00#14, 0x1000#14, fun w => .bcf (fileField w) (bitField w)⟩,
    ⟨0x3C00#14, 0x1400#14, fun w => .bsf (fileField w) (bitField w)⟩,
    ⟨0x3C00#14, 0x1800#14, fun w => .btfsc (fileField w) (bitField w)⟩,
    ⟨0x3C00#14, 0x1C00#14, fun w => .btfss (fileField w) (bitField w)⟩ ]

/-- The literal rows of R87. -/
def literalRows : List OpcodeRow :=
  [ ⟨0x3E00#14, 0x3E00#14, fun w => .addlw (literalField w)⟩,
    ⟨0x3F00#14, 0x3900#14, fun w => .andlw (literalField w)⟩,
    ⟨0x3F00#14, 0x3800#14, fun w => .iorlw (literalField w)⟩,
    ⟨0x3C00#14, 0x3000#14, fun w => .movlw (literalField w)⟩,
    ⟨0x3E00#14, 0x3C00#14, fun w => .sublw (literalField w)⟩,
    ⟨0x3F00#14, 0x3A00#14, fun w => .xorlw (literalField w)⟩,
    ⟨0x3C00#14, 0x3400#14, fun w => .retlw (literalField w)⟩ ]

/-- The control rows of R87 and the two rows of CALL and GOTO. -/
def controlRows : List OpcodeRow :=
  [ ⟨0x3FFF#14, 0x0064#14, fun _ => .clrwdt⟩,
    ⟨0x3FFF#14, 0x0062#14, fun _ => .option⟩,
    ⟨0x3FFF#14, 0x0009#14, fun _ => .retfie⟩,
    ⟨0x3FFF#14, 0x0008#14, fun _ => .ret⟩,
    ⟨0x3FFF#14, 0x0063#14, fun _ => .sleep⟩,
    ⟨0x3FFF#14, 0x0065#14, fun w => .tris (trisField w)⟩,
    ⟨0x3FFF#14, 0x0066#14, fun w => .tris (trisField w)⟩,
    ⟨0x3FFF#14, 0x0067#14, fun w => .tris (trisField w)⟩,
    ⟨0x3800#14, 0x2000#14, fun w => .call (addressField w)⟩,
    ⟨0x3800#14, 0x2800#14, fun w => .goto (addressField w)⟩ ]

/-- The complete map of R87, 39 rows. -/
def opcodeMap : List OpcodeRow := byteRows ++ bitRows ++ literalRows ++ controlRows

/-- Whether a word is a row's: `w & mask = pattern` (the decoding procedure of R87), written on the numbers, which the
kernel evaluates fast; `rowMatches_iff` in Laws/Encoding.lean says it of the words. -/
def rowMatches (w : Word14) (r : OpcodeRow) : Bool := Nat.beq (Nat.land w.toNat r.mask.toNat) r.pattern.toNat

/-- The decoder: the row a word selects (R87); `none` is an unassigned word, `Illegal(w)` (R88). -/
def decode (w : Word14) : Option Instr := (opcodeMap.find? (rowMatches w)).map fun r => r.build w

/-- The destination bit (R85). -/
def destBit : Dest → BitVec 1
  | .w => 0#1
  | .f => 1#1

/-- The word of an instruction, every don't-care bit 0 (the patterns of R87; R89). -/
def encode : Instr → Word14
  | .addwf f d => 0b000111#6 ++ destBit d ++ f
  | .andwf f d => 0b000101#6 ++ destBit d ++ f
  | .clrf f => 0b0000011#7 ++ f
  | .clrw => 0b00000100000000#14
  | .comf f d => 0b001001#6 ++ destBit d ++ f
  | .decf f d => 0b000011#6 ++ destBit d ++ f
  | .decfsz f d => 0b001011#6 ++ destBit d ++ f
  | .incf f d => 0b001010#6 ++ destBit d ++ f
  | .incfsz f d => 0b001111#6 ++ destBit d ++ f
  | .iorwf f d => 0b000100#6 ++ destBit d ++ f
  | .movf f d => 0b001000#6 ++ destBit d ++ f
  | .movwf f => 0b0000001#7 ++ f
  | .nop => 0b00000000000000#14
  | .rlf f d => 0b001101#6 ++ destBit d ++ f
  | .rrf f d => 0b001100#6 ++ destBit d ++ f
  | .subwf f d => 0b000010#6 ++ destBit d ++ f
  | .swapf f d => 0b001110#6 ++ destBit d ++ f
  | .xorwf f d => 0b000110#6 ++ destBit d ++ f
  | .bcf f b => 0b0100#4 ++ b ++ f
  | .bsf f b => 0b0101#4 ++ b ++ f
  | .btfsc f b => 0b0110#4 ++ b ++ f
  | .btfss f b => 0b0111#4 ++ b ++ f
  | .addlw k => 0b111110#6 ++ k
  | .andlw k => 0b111001#6 ++ k
  | .iorlw k => 0b111000#6 ++ k
  | .movlw k => 0b110000#6 ++ k
  | .sublw k => 0b111100#6 ++ k
  | .xorlw k => 0b111010#6 ++ k
  | .retlw k => 0b110100#6 ++ k
  | .clrwdt => 0b00000001100100#14
  | .option => 0b00000001100010#14
  | .retfie => 0b00000000001001#14
  | .ret => 0b00000000001000#14
  | .sleep => 0b00000001100011#14
  | .tris f => 0b00000001100#11 ++ f
  | .call k => 0b100#3 ++ k
  | .goto k => 0b101#3 ++ k

/-- The bits of an instruction's word that take part in decoding or carry an operand: all but the don't-care bits of
R89. -/
def careMask : Instr → Word14
  | .clrw => 0x3F80#14
  | .nop => 0x3F9F#14
  | .movlw _ | .retlw _ => 0x3CFF#14
  | .addlw _ | .sublw _ => 0x3EFF#14
  | .addwf _ _ | .andwf _ _ | .clrf _ | .comf _ _ | .decf _ _ | .decfsz _ _ | .incf _ _ | .incfsz _ _
  | .iorwf _ _ | .movf _ _ | .movwf _ | .rlf _ _ | .rrf _ _ | .subwf _ _ | .swapf _ _ | .xorwf _ _
  | .bcf _ _ | .bsf _ _ | .btfsc _ _ | .btfss _ _ | .andlw _ | .iorlw _ | .xorlw _
  | .clrwdt | .option | .retfie | .ret | .sleep | .tris _ | .call _ | .goto _ => 0x3FFF#14

/-- The instruction read from a table row's word `w`: an instruction is one word of 14 bits and the spec gives it no
byte layout (spec/20_memory.md R64), so `w` itself is the word; bits 15 and 14 do not exist and must be 0. -/
def decodeTableWord (_nbits w : Nat) : Option Instr :=
  if w < 2 ^ 14 then decode (BitVec.ofNat 14 w) else none

end Sys2Proof
end

