-- ==== Sys2Proof/Machine/Platform.lean ====
section
/-! DEFINITION. What happens between two instructions: resets, the watchdog, interrupt requests, sleep and waking
(spec/60_exceptions.md R183 to R195; spec/70_reset_and_hazards.md R210). -/

namespace Sys2Proof.Machine

/-- REF84's request (R183): an interrupt whose own enable bit is set has its flag bit set, for the bits of INTCON (R30: from
bit 6 down EEIE, T0IE, INTE, RBIE, T0IF, INTF, RBIF) and EEIF. -/
def irqRef84 (s : State) : Bool :=
  (s.intcon.getLsbD 5 && s.intcon.getLsbD 2) || (s.intcon.getLsbD 4 && s.intcon.getLsbD 1) ||
    (s.intcon.getLsbD 3 && s.intcon.getLsbD 0) || (s.intcon.getLsbD 6 && s.eeif)

/-- The request `irq` (R183), as the parameter says. Log entry 13. -/
def irq (s : State) : Bool :=
  match s.params.irqSource with
  | .never => false
  | .ref84 => irqRef84 s
  | .line => s.irqLine

/-- An interrupt is entered before the next instruction: GIE = 1 and `irq` (R186). -/
def interruptPending (s : State) : Bool := flagGIE s && irq s

/-- What every reset sets (R210, R41): pc, the stack, PCLATH, INTCON but its unspecified bit 0, OPTION, STATUS bits 7 to
5, the watchdog cells, the sleep state. The rest keeps its old value, as on the hardware (R210). DESIGN CHOICE: log entry
17. -/
def resetCore (s : State) : State :=
  { s with
    pc := s.params.resetVector
    stack := []
    pclath := 0#5
    intcon := setBit (s.intcon &&& 0x01#8) s.params.intconGIE false
    option := 0xFF#8
    status := s.status &&& 0x1F#8
    wdt := 0
    wdtPrescaler := 0
    asleep := false }

/-- A watchdog reset: TO = 0, PD = 1 (R190, R210). -/
def watchdogReset (s : State) : State := setToPd false true (resetCore s)

/-- An external reset: TO and PD are not stated, so free (log entry 17). -/
def externalResetState (s : State) : State :=
  { setToPd ((Config.externalResetToPd s.draws).getLsbD 1) ((Config.externalResetToPd s.draws).getLsbD 0) (resetCore s) with
    draws := s.draws + 1 }

/-- A power-on reset: the state of R41; the program, the parameters and the platform's own fields stay. -/
def powerOnState (s : State) : State :=
  { State.reset with
    pc := s.params.resetVector
    status := s.params.resetStatus
    prog := s.prog
    params := s.params
    eeif := s.eeif
    irqLine := s.irqLine
    ioLevels := s.ioLevels
    ioLog := s.ioLog
    draws := s.draws
    inputs := s.inputs }

/-- What stands at the boundary before an instruction. -/
inductive Boundary where
  /-- no instruction in this step: a reset was taken, or the core sleeps on -/
  | settled (s : State)
  /-- the step goes on to the fetch -/
  | proceed (s : State)
  /-- interrupt entry faulted -/
  | stop (e : Fault)
  deriving DecidableEq, Repr

/-- The boundary with no reset and no time-out. Asleep: an individually enabled interrupt wakes the core whatever GIE
is, and the instruction at pc comes first (R195 (c)); else the core sleeps on (R194; log entry 15). The wake is on the
level of `irq`: a request already held when SLEEP runs, or one that software raised in INTCON, is a wake event too, so such
a sleep ends at the next boundary with no platform input. DESIGN CHOICE, unsafe: R164, R33 and D13 leave that open (log
entry 16). Awake: interrupt entry, or straight to the fetch (R186). -/
def boundaryQuiet (s : State) : Boundary :=
  if s.asleep then
    if irq s then .proceed { s with asleep := false } else .settled s
  else if interruptPending s then
    match interruptEntry s with
    | .ok s' => .proceed s'
    | .error e => .stop e
  else .proceed s

/-- A watchdog time-out (R190): awake, a reset; asleep, the core wakes with TO = 0 and goes on at pc (R195 (b)). No
event exists where WDT_ENABLED is false. -/
def boundaryTimeout (s : State) : Boundary :=
  if s.params.wdtEnabled then
    if s.asleep then .proceed { s with asleep := false, status := setBit s.status s.params.statusTO false }
    else .settled (watchdogReset s)
  else boundaryQuiet s

/-- The flags that rise, in INTCON's bits T0IF, INTF, RBIF (R183): REF84's bits 2, 1, 0, whatever INTCON_GIE is. DESIGN
CHOICE: log entry 13. -/
def PlatformInput.flags (x : PlatformInput) : Byte :=
  (if x.timer0Overflow then 0x04#8 else 0x00#8) ||| (if x.externalInterrupt then 0x02#8 else 0x00#8) |||
    (if x.portBChange then 0x01#8 else 0x00#8)

/-- The request flags, lines and levels that the platform sets (R183, R35). It never sets GIE, which RETFIE and file writes
alone set (R184): where INTCON_GIE is the bit of a flag, that flag does not rise. DESIGN CHOICE: log entry 13. -/
def raiseFlags (x : PlatformInput) (s : State) : State :=
  { s with
    intcon := s.intcon ||| (x.flags &&& ~~~(1#8 <<< s.params.intconGIE.val))
    eeif := x.eeif.getD s.eeif
    irqLine := x.irqLine.getD s.irqLine
    ioLevels := x.ioLevels.foldl (fun m e => m.store (ioNumber e.1) e.2) s.ioLevels }

/-- What the platform does, then the boundary; a reset comes before anything else (R185). -/
def deliver (x : PlatformInput) (s : State) : Boundary :=
  match x.event with
  | none => boundaryQuiet (raiseFlags x s)
  | some .watchdogTimeout => boundaryTimeout (raiseFlags x s)
  | some .externalReset => .settled (externalResetState (raiseFlags x s))
  | some .powerOnReset => .settled (powerOnState (raiseFlags x s))

/-- The boundary before the next instruction: the first input of the list, none where the list is empty. -/
def boundary (s : State) : Boundary :=
  match s.inputs with
  | [] => boundaryQuiet s
  | x :: rest => deliver x { s with inputs := rest }

end Sys2Proof.Machine
end

