-- ==== Sys2Proof/Machine/Fetch.lean ====
section
/-! DEFINITION. Instruction fetch (spec/10_state.md R24; spec/30_encoding.md R87, R88). -/

namespace Sys2Proof.Machine

/-- The fetch of R24: the word at pc, decoded, and the state with pc advanced. The faults in R181's order:
`FetchOutOfRange` (log entry 2), then `IllegalOpcode` (log entry 27). -/
def fetch (s : State) : Except Fault (Instr × State) :=
  if s.pc.toNat < s.params.progWords then
    match decode (progRead s.pc s) with
    | some i => .ok (i, { s with pc := s.pc + 1#13 })
    | none => .error (.illegalOpcode (progRead s.pc s))
  else .error (.fetchOutOfRange s.pc)

/-- The program word `w` where the next step fetches: the core awake, no platform input due, pc implemented; at
INT_VECTOR where an interrupt is about to be entered. The loading of a program from outside (log entry 1). -/
def placeFetchWord (s : State) (w : Nat) : State :=
  let s1 : State := { s with asleep := false, inputs := [] }
  let s2 : State := if s1.pc.toNat < s1.params.progWords then s1 else { s1 with pc := s1.params.resetVector }
  let a : Addr13 := if interruptPending s2 then s2.params.intVector else s2.pc
  { s2 with prog := s2.prog.store a.toNat (BitVec.ofNat 14 w) }

end Sys2Proof.Machine
end

