-- ==== Sys2Proof/Machine/Step.lean ====
section
/-! DEFINITION. One step: the boundary before an instruction, the fetch, the instruction (spec/10_state.md R24;
spec/60_exceptions.md R186). -/

namespace Sys2Proof.Machine

/-- One step of the machine. -/
def step (s : State) : Host.Outcome State Fault Refusal :=
  match boundary s with
  | .settled s' => .next s'
  | .stop e => .fault e
  | .proceed s' =>
    match fetch s' with
    | .error e => .fault e
    | .ok (i, s'') => exec i s''

/-- `s` with the instruction whose bits are `w` where the next step fetches. -/
def State.withFetchWord (s : State) (_nbits w : Nat) : State := placeFetchWord s w

end Sys2Proof.Machine
end

