-- ==== Sys2Proof/Machine/Timing.lean ====
section
/-! DEFINITION. The cycle counts of spec/70_reset_and_hazards.md R215, as data: no step reads them (R216; log entry 25). -/

namespace Sys2Proof.Machine

/-- Whether an instruction writes PCL, its file operand being PCL or INDF with FSR at PCL. -/
def writesPcl (i : Instr) (s : State) : Bool :=
  match i with
  | .addwf f .f | .andwf f .f | .comf f .f | .decf f .f | .decfsz f .f | .incf f .f | .incfsz f .f | .iorwf f .f
  | .movf f .f | .rlf f .f | .rrf f .f | .subwf f .f | .swapf f .f | .xorwf f .f
  | .clrf f | .movwf f | .bcf f _ | .bsf f _ => effCell f s == .pcl
  | .addwf _ .w | .andwf _ .w | .comf _ .w | .decf _ .w | .decfsz _ .w | .incf _ .w | .incfsz _ .w | .iorwf _ .w
  | .movf _ .w | .rlf _ .w | .rrf _ .w | .subwf _ .w | .swapf _ .w | .xorwf _ .w
  | .clrw | .nop | .btfsc _ _ | .btfss _ _
  | .addlw _ | .andlw _ | .iorlw _ | .movlw _ | .sublw _ | .xorlw _ | .retlw _
  | .clrwdt | .option | .retfie | .ret | .sleep | .tris _ | .call _ | .goto _ => false

/-- The cycles of an instruction that ran from `s` (pc already advanced) to `t` (R215): 2 for the calls, jumps and
returns and for a write to PCL; 2 for a skip instruction whose skip was taken; else 1. -/
def cycles (i : Instr) (s t : State) : Nat :=
  match i with
  | .call _ | .goto _ | .retfie | .retlw _ | .ret => 2
  | .btfsc _ _ | .btfss _ _ => if t.pc = s.pc then 1 else 2
  | .decfsz _ _ | .incfsz _ _ => if t.pc = s.pc ∧ writesPcl i s = false then 1 else 2
  | .addwf _ _ | .andwf _ _ | .clrf _ | .clrw | .comf _ _ | .decf _ _ | .incf _ _ | .iorwf _ _ | .movf _ _
  | .movwf _ | .nop | .rlf _ _ | .rrf _ _ | .subwf _ _ | .swapf _ _ | .xorwf _ _ | .bcf _ _ | .bsf _ _
  | .addlw _ | .andlw _ | .iorlw _ | .movlw _ | .sublw _ | .xorlw _ | .clrwdt | .option | .sleep | .tris _ =>
    if writesPcl i s then 2 else 1

end Sys2Proof.Machine
end

