-- ==== Sys2Proof/Safety.lean ====
section
/-! DEFINITION. What counts as a well-formed state, a safe run and an ended run. -/

namespace Sys2Proof

open Sys2Proof.Machine

/-- The plain form of a state: the parameters are meaningful, the stack holds at most STACK_DEPTH addresses (R27), both
memories and the levels at the I/O cells are canonical. -/
def stateWf (s : State) : Bool :=
  s.params.wf && decide (s.stack.length ≤ s.params.stackDepth) && s.ram.wf s.params.fileMap.ramCells &&
    s.prog.wf s.params.progWords && risingFrom 0 s.ioLevels

/-- While the core is asleep, TO = 1 and PD = 0, as SLEEP left them (spec/60_exceptions.md R194). -/
def sleepFlagsOk (s : State) : Bool := !s.asleep || (flagTO s && !flagPD s)

/-- The invariant every step keeps. -/
structure Inv (s : State) : Prop where
  wf : stateWf s = true
  sleepFlags : sleepFlagsOk s = true

/-- `k` steps from `s` without a stop. -/
def safeRun (k : Nat) (s : State) : Prop := ∃ t, Host.Core.run core k s = .next t

/-- A run has ended (spec/70_reset_and_hazards.md R217): the core is awake, the word at pc is a GOTO whose target is pc
itself, and GIE = 0 or `irq` is constantly false. The chip does not stop there. -/
def runEnded (s : State) : Bool :=
  !s.asleep && decide (s.pc.toNat < s.params.progWords) && (!flagGIE s || s.params.irqSource == .never) &&
    match decode (progRead s.pc s) with
    | some (.goto k) => jumpTarget k s == s.pc
    | _ => false

/-- The file operand can be read (spec/40_byte_oriented.md R110 (d)): in the treatment `hardware` always; in the
treatment `verdict` where the access reaches a cell, and, for a general-purpose cell, one that something has written. -/
def fileReadable (f : FileAddr) (s : State) : Prop :=
  s.params.treatment = .hardware ∨
    match effCell f s with
    | .unimplemented _ => False
    | .gpr n => (s.ram.load n).isSome
    | _ => True

/-- The file operand can be written: in the treatment `verdict` only where the access reaches a cell. -/
def fileWritable (f : FileAddr) (s : State) : Prop :=
  s.params.treatment = .hardware ∨ ∀ a, effCell f s ≠ .unimplemented a

end Sys2Proof
end

