-- ==== Sys2Proof/WellFormed.lean ====
section
/-! DEFINITION. Which terms of `Instr` are instructions. Every operand range of spec/30_encoding.md R85 is its operand's
type, but for TRIS, whose 3-bit operand is 5, 6 or 7 (R87, R165). -/

namespace Sys2Proof

/-- The operand of TRIS is 5, 6 or 7 (R165). -/
def trisOperandOk (f : BitVec 3) : Bool := f == 5#3 || f == 6#3 || f == 7#3

/-- The well-formed instructions. -/
def Instr.wellFormed : Instr → Bool
  | .tris f => trisOperandOk f
  | .addwf _ _ | .andwf _ _ | .clrf _ | .clrw | .comf _ _ | .decf _ _ | .decfsz _ _ | .incf _ _ | .incfsz _ _
  | .iorwf _ _ | .movf _ _ | .movwf _ | .nop | .rlf _ _ | .rrf _ _ | .subwf _ _ | .swapf _ _ | .xorwf _ _
  | .bcf _ _ | .bsf _ _ | .btfsc _ _ | .btfss _ _
  | .addlw _ | .andlw _ | .iorlw _ | .movlw _ | .sublw _ | .xorlw _ | .retlw _
  | .clrwdt | .option | .retfie | .ret | .sleep | .call _ | .goto _ => true

end Sys2Proof
end

