-- ==== Sys2Proof/Certificates/Slice0/Obligations.lean ====
section
/-! DEFINITION. The statements for the provers, and the vocabulary they are written in. A statement that speaks of flags
takes meaningful parameters, `Params.wf`: the five flags at five different bits (spec/10_state.md R28). Every step keeps
that (`StepKeepsInvariant`). -/

namespace Sys2Proof.Claims

open Sys2Proof.Machine

/-! ### Vocabulary -/

/-- Every bit of STATUS but C, DC and Z is as before. -/
def SameButFlags (s t : State) : Prop :=
  ∀ j, j ≠ s.params.statusC.val → j ≠ s.params.statusDC.val → j ≠ s.params.statusZ.val →
    t.status.getLsbD j = s.status.getLsbD j

/-- Every bit of STATUS but TO and PD is as before. -/
def SameButToPd (s t : State) : Prop :=
  ∀ j, j ≠ s.params.statusTO.val → j ≠ s.params.statusPD.val → t.status.getLsbD j = s.status.getLsbD j

/-- `t` is `s` but for C, DC and Z, each of which is the computed value where one is given. -/
def StatusAfter (c dc z : Option Bool) (s t : State) : Prop :=
  t = { s with status := t.status } ∧ flagC t = c.getD (flagC s) ∧ flagDC t = dc.getD (flagDC s) ∧
    flagZ t = z.getD (flagZ s) ∧ SameButFlags s t

/-- `i`, executed from `s`, answers a next state: the destination `d` of operand `f` takes `r` in the state `s1` that
the read of the operand left, then the flags given are written, and nothing else changes. -/
def Completes (i : Instr) (d : Dest) (f : FileAddr) (s1 : State) (r : Byte) (c dc z : Option Bool) (s : State) : Prop :=
  ∃ s2 t, writeDest ⟨c, dc, z⟩ d f r s1 = .ok s2 ∧ exec i s = .next t ∧ StatusAfter c dc z s2 t

/-- The word `w` stands for `i` (R87), which takes `n` cycles (R215). -/
def CodedAs (i : Instr) (w : Word14) (n : Nat) : Prop := decode w = some i ∧ ∀ s t : State, cycles i s t = n

/-- The word `w` stands for `i` (R87), which takes 2 cycles where `toFile` and its operand `f` reaches PCL, else 1
(R215). -/
def CodedWithFile (i : Instr) (w : Word14) (toFile : Prop) (f : FileAddr) : Prop :=
  decode w = some i ∧
    ∀ s t : State, (toFile ∧ effCell f s = .pcl → cycles i s t = 2) ∧ (¬(toFile ∧ effCell f s = .pcl) → cycles i s t = 1)

/-- The file register an instruction writes (R110, R113, R122, R140). -/
def fileDest : Instr → Option FileAddr
  | .addwf f .f | .andwf f .f | .comf f .f | .decf f .f | .decfsz f .f | .incf f .f | .incfsz f .f | .iorwf f .f
  | .movf f .f | .rlf f .f | .rrf f .f | .subwf f .f | .swapf f .f | .xorwf f .f
  | .clrf f | .movwf f | .bcf f _ | .bsf f _ => some f
  | .addwf _ .w | .andwf _ .w | .comf _ .w | .decf _ .w | .decfsz _ .w | .incf _ .w | .incfsz _ .w | .iorwf _ .w
  | .movf _ .w | .rlf _ .w | .rrf _ .w | .subwf _ .w | .swapf _ .w | .xorwf _ .w
  | .clrw | .nop | .btfsc _ _ | .btfss _ _
  | .addlw _ | .andlw _ | .iorlw _ | .movlw _ | .sublw _ | .xorlw _ | .retlw _
  | .clrwdt | .option | .retfie | .ret | .sleep | .tris _ | .call _ | .goto _ => none

/-- The file register an instruction reads (R110, R140); CLRF and MOVWF read none (R66). -/
def fileSource : Instr → Option FileAddr
  | .addwf f _ | .andwf f _ | .comf f _ | .decf f _ | .decfsz f _ | .incf f _ | .incfsz f _ | .iorwf f _ | .movf f _
  | .rlf f _ | .rrf f _ | .subwf f _ | .swapf f _ | .xorwf f _
  | .bcf f _ | .bsf f _ | .btfsc f _ | .btfss f _ => some f
  | .clrf _ | .movwf _ | .clrw | .nop
  | .addlw _ | .andlw _ | .iorlw _ | .movlw _ | .sublw _ | .xorlw _ | .retlw _
  | .clrwdt | .option | .retfie | .ret | .sleep | .tris _ | .call _ | .goto _ => none

/-- In the treatment `verdict` an access through `f` reaches no cell: the fault is `e` (R36, R37). -/
def NoCellFault (f : FileAddr) (s : State) (e : Fault) : Prop :=
  s.params.treatment = .verdict ∧ ∃ a, effCell f s = .unimplemented a ∧ e = .unimplementedFile a

/-- In the treatment `verdict` a read through `f` reaches a general-purpose cell that nothing has written: the fault is `e`
(R41). -/
def UnwrittenFault (f : FileAddr) (s : State) (e : Fault) : Prop :=
  s.params.treatment = .verdict ∧ ∃ n, effCell f s = .gpr n ∧ s.ram.load n = none ∧ e = .readUnwritten n

/-- `i` writes the cell `c` through its file operand. -/
def WritesCell (i : Instr) (c : Cell) (s : State) : Prop := ∃ f, fileDest i = some f ∧ effCell f s = c

/-- The instructions that write W: the literal instructions, CLRW, and those with a destination that is W (R20). -/
def writesW : Instr → Prop
  | .addlw _ | .andlw _ | .iorlw _ | .movlw _ | .sublw _ | .xorlw _ | .retlw _ | .clrw
  | .addwf _ .w | .andwf _ .w | .comf _ .w | .decf _ .w | .decfsz _ .w | .incf _ .w | .incfsz _ .w | .iorwf _ .w
  | .movf _ .w | .rlf _ .w | .rrf _ .w | .subwf _ .w | .swapf _ .w | .xorwf _ .w => True
  | _ => False

/-- The instructions with a flag list that holds C (R29). -/
def writesC : Instr → Prop
  | .sublw _ | .subwf _ _ | .addlw _ | .addwf _ _ | .rlf _ _ | .rrf _ _ => True
  | _ => False

/-- The instructions with a flag list that holds DC (R29). -/
def writesDC : Instr → Prop
  | .sublw _ | .subwf _ _ | .addlw _ | .addwf _ _ => True
  | _ => False

/-- The instructions with a flag list that holds Z (R29); INCFSZ by its parameter. -/
def writesZ (p : Params) : Instr → Prop
  | .sublw _ | .subwf _ _ | .addlw _ | .addwf _ _ | .clrf _ | .clrw | .comf _ _ | .decf _ _ | .incf _ _ | .iorlw _
  | .iorwf _ _ | .movf _ _ | .xorlw _ | .xorwf _ _ | .andlw _ | .andwf _ _ => True
  | .incfsz _ _ => p.incfszWritesZ = true
  | _ => False

/-- The flags that `i` does not list, and every other bit of STATUS, are as before (R29). -/
def OtherStatusBits (i : Instr) (s t : State) : Prop :=
  (¬writesC i → flagC t = flagC s) ∧ (¬writesDC i → flagDC t = flagDC s) ∧
    (¬writesZ s.params i → flagZ t = flagZ s) ∧ SameButFlags s t

/-- Every byte of memory reads as before. -/
def SameMemory (s t : State) : Prop := ∀ n, t.ram.load n = s.ram.load n

/-- The events and levels at platform cells and the draw counter are as before unless the operand `f` reaches a platform
cell; the level of a cell that it does not reach is as before. -/
def SameIo (f : FileAddr) (s t : State) : Prop :=
  ((∀ name, effCell f s ≠ .io name) → t.ioLog = s.ioLog ∧ t.draws = s.draws ∧ t.ioLevels = s.ioLevels) ∧
    ∀ name, effCell f s ≠ .io name → t.ioLevels.load (ioNumber name) = s.ioLevels.load (ioNumber name)

/-- `t` is `s` after a write of `v` to the platform cell `name`: the event, and, where `io_write` is a latch, the level of
that cell (R35; log entry 12). -/
def WroteIo (name : IoName) (v : Byte) (s t : State) : Prop :=
  t = { s with ioLog := .write name v :: s.ioLog, ioLevels := t.ioLevels } ∧
    (s.params.ioWriteEffect = .record → t.ioLevels = s.ioLevels) ∧
    (s.params.ioWriteEffect = .latch → ∀ other, t.ioLevels.load (ioNumber other) =
      if other = name then some v else s.ioLevels.load (ioNumber other))

/-- What no instruction with a file operand changes. -/
def SameOutsideFile (s t : State) : Prop :=
  t.stack = s.stack ∧ t.prog = s.prog ∧ t.wdt = s.wdt ∧ t.wdtPrescaler = s.wdtPrescaler ∧ t.asleep = s.asleep ∧
    t.eeif = s.eeif ∧ t.irqLine = s.irqLine ∧ t.inputs = s.inputs ∧ t.params = s.params

/-- The frame of a write of the file register `f` by `i`: only the cell that `f` reaches takes a value, and the flags
that `i` lists. The program counter is left out. -/
def FileFrame (i : Instr) (f : FileAddr) (s t : State) : Prop :=
  SameOutsideFile s t ∧ t.w = s.w ∧
    (effCell f s ≠ .pclath → t.pclath = s.pclath) ∧ (effCell f s ≠ .intcon → t.intcon = s.intcon) ∧
    (effCell f s ≠ .optionReg → t.option = s.option) ∧ (effCell f s ≠ .fsr → t.fsr = s.fsr) ∧
    (effCell f s ≠ .status → OtherStatusBits i s t) ∧
    (∀ n, effCell f s ≠ .gpr n → t.ram.load n = s.ram.load n) ∧ SameIo f s t

/-- `k` executions of one instruction, each from the state the one before left. -/
def execTimes : Nat → Instr → State → Host.Outcome State Fault Refusal
  | 0, _, s => .next s
  | k + 1, i, s =>
    match exec i s with
    | .next t => execTimes k i t
    | .fault e => .fault e
    | .refused r => .refused r

/-- Two states that differ at most in the record of events at platform cells. -/
def SameButLog (s t : State) : Prop := t = { s with ioLog := t.ioLog }

/-- The next step goes straight to the fetch: no input, awake, no interrupt due (R24). -/
def Undisturbed (s : State) : Prop := s.inputs = [] ∧ s.asleep = false ∧ interruptPending s = false

/-- `s` lists the input `x` first, and `u` is `s` with it taken: off the list, the flags it names set in INTCON (T0IF bit
2, INTF bit 1, RBIF bit 0, but never GIE, R184), EEIF, the request line and the platform cells at the levels it gives
(R183, R35; log entries 12, 13, 14). -/
def Took (x : PlatformInput) (rest : List PlatformInput) (s u : State) : Prop :=
  s.inputs = x :: rest ∧
    u = { s with
      inputs := rest
      intcon := s.intcon |||
        (((if x.timer0Overflow then 0x04#8 else 0#8) ||| (if x.externalInterrupt then 0x02#8 else 0#8) |||
          (if x.portBChange then 0x01#8 else 0#8)) &&& ~~~(1#8 <<< s.params.intconGIE.val))
      eeif := x.eeif.getD s.eeif
      irqLine := x.irqLine.getD s.irqLine
      ioLevels := x.ioLevels.foldl (fun m e => m.store (ioNumber e.1) e.2) s.ioLevels }

/-- `u` is `s` with the input of this boundary taken, where that is no time-out and no reset: none listed, or any flags and
lines. -/
def Arrived (s u : State) : Prop :=
  (s.inputs = [] ∧ u = s) ∨ ∃ x rest, Took x rest s u ∧ x.event = none

end Sys2Proof.Claims

open Sys2Proof Sys2Proof.Machine Sys2Proof.Claims

/-! ### Encoding -/

/-- Every well-formed instruction is read back from its word, every operand at every value (R87; spec/30_encoding.md). -/
def Obligations.DecodeOfEncode : Prop :=
  ∀ i : Instr, i.wellFormed = true → decode (encode i) = some i

/-- An instruction read from a word is well formed, and its own word agrees with that word in every bit but the
don't-care bits (R87, R89). -/
def Obligations.EncodeOfDecode : Prop :=
  ∀ (w : Word14) (i : Instr), decode w = some i →
    i.wellFormed = true ∧ encode i &&& careMask i = w &&& careMask i

/-- R88: the unassigned words are h'3B00' to h'3BFF' and, below h'0080', all but the twelve listed;
fetching one is the fault `IllegalOpcode(w)`, wherever a boundary lets the step go on to a fetch, also after an interrupt
entry, a wake or an input; the erased word is ADDLW h'FF'. -/
def Obligations.UnassignedWordsFault : Prop :=
  (∀ w : Word14, decode w = none ↔
    (0x3B00 ≤ w.toNat ∧ w.toNat ≤ 0x3BFF) ∨
    (w.toNat < 0x80 ∧ w.toNat ∉ [0x00, 0x20, 0x40, 0x60, 0x08, 0x09, 0x62, 0x63, 0x64, 0x65, 0x66, 0x67])) ∧
  (∀ s s1 : State, boundary s = .proceed s1 → s1.pc.toNat < s1.params.progWords → decode (progRead s1.pc s1) = none →
    step s = .fault (.illegalOpcode (progRead s1.pc s1))) ∧
  decode Config.erasedWord = some (.addlw 0xFF#8)

/-- R89: the don't-care bits of CLRW, NOP, MOVLW, RETLW, ADDLW and SUBLW take no part in decoding. -/
def Obligations.DontCareBitsIgnored : Prop :=
  (∀ x : BitVec 7, decode (0b0000010#7 ++ x) = some .clrw) ∧
  (∀ x : BitVec 2, decode (0b0000000#7 ++ x ++ 0b00000#5) = some .nop) ∧
  (∀ (x : BitVec 2) (k : Byte), decode (0b1100#4 ++ x ++ k) = some (.movlw k)) ∧
  (∀ (x : BitVec 2) (k : Byte), decode (0b1101#4 ++ x ++ k) = some (.retlw k)) ∧
  (∀ (x : BitVec 1) (k : Byte), decode (0b11111#5 ++ x ++ k) = some (.addlw k)) ∧
  (∀ (x : BitVec 1) (k : Byte), decode (0b11110#5 ++ x ++ k) = some (.sublw k))

/-- No word matches two rows of the opcode map, which has 39 rows (R87). -/
def Obligations.OpcodeRowsDisjoint : Prop :=
  opcodeMap.length = 39 ∧
    opcodeMap.Pairwise fun a b => ∀ w : Word14, ¬(rowMatches w a = true ∧ rowMatches w b = true)

/-- Words written out from the patterns of R87, one for each format, decode to what they stand for (the words of
spec/95_test_vectors.md). -/
def Obligations.SampleWordsDecode : Prop :=
  decode 0b00011110001111#14 = some (.addwf 0x0F#7 .f) ∧ decode 0b01001110000011#14 = some (.bcf 0x03#7 7#3) ∧
  decode 0b11111011100101#14 = some (.addlw 0xE5#8) ∧ decode 0b00000001100110#14 = some (.tris 6#3) ∧
  decode 0b10000100100011#14 = some (.call 0x123#11) ∧ decode 0b10111111111111#14 = some (.goto 0x7FF#11)

/-! ### Reset, the invariant, the step -/

/-- The values that the table of R41 gives, at `State.reset`. The values of W, C, DC, Z, FSR and INTCON bits 2 to 0 there
are the model's own choice (log entries 8, 9), and this statement does not state them. -/
def Obligations.ResetValuesOfTable : Prop :=
  State.reset.pc = 0x0000#13 ∧ State.reset.stack = [] ∧ flagTO State.reset = true ∧ flagPD State.reset = true ∧
  State.reset.status.getLsbD 7 = false ∧ State.reset.status.getLsbD 6 = false ∧ State.reset.status.getLsbD 5 = false ∧
  State.reset.pclath = 0#5 ∧ flagGIE State.reset = false ∧ State.reset.intcon.getLsbD 6 = false ∧
  State.reset.intcon.getLsbD 5 = false ∧ State.reset.intcon.getLsbD 4 = false ∧ State.reset.intcon.getLsbD 3 = false ∧
  State.reset.option = 0xFF#8 ∧ (∀ n, State.reset.ram.load n = none) ∧ State.reset.wdt = 0 ∧
  State.reset.wdtPrescaler = 0 ∧ State.reset.asleep = false

/-- The invariant holds after reset. -/
def Obligations.ResetMeetsInvariant : Prop := Inv State.reset

/-- Every step keeps the invariant: meaningful parameters (R4), at most STACK_DEPTH return addresses (R27), both memories
and the levels at platform cells canonical, and TO = 1, PD = 0 while asleep (R194). -/
def Obligations.StepKeepsInvariant : Prop :=
  ∀ s t : State, Inv s → step s = .next t → Inv t

/-- A step runs the decoded instruction (R24): where the boundary lets the step go on from `s1`, and the word at pc
decodes to `i`, the step is `exec i` with pc already advanced; with no input, awake and no interrupt due, `s1` is the
state itself. -/
def Obligations.StepRunsDecodedInstruction : Prop :=
  (∀ (s s1 : State) (i : Instr), boundary s = .proceed s1 → s1.pc.toNat < s1.params.progWords →
    decode (progRead s1.pc s1) = some i → step s = exec i { s1 with pc := s1.pc + 1#13 }) ∧
  ∀ s : State, Undisturbed s → boundary s = .proceed s

/-- A fetch at or beyond PROG_WORDS stops (R24), whatever memory holds, wherever the boundary lets the step go on to a fetch
from `s1`: also after an interrupt entry (R186), a wake (R195) or an input. -/
def Obligations.FetchOutOfRangeStops : Prop :=
  ∀ s s1 : State, boundary s = .proceed s1 → s1.params.progWords ≤ s1.pc.toNat → step s = .fault (.fetchOutOfRange s1.pc)

/-- A word placed for the next fetch (log entries 1, 26) is the word that runs: from a well-formed undisturbed state with pc
in range. -/
def Obligations.PlacedWordRuns : Prop :=
  ∀ (s : State) (w : Word14) (i : Instr), stateWf s = true → Undisturbed s → s.pc.toNat < s.params.progWords →
    decode w = some i →
    ∃ p, step (s.withFetchWord 16 w.toNat) = exec i { s with prog := p, pc := s.pc + 1#13 } ∧
      ∀ a, p.load a = if a = s.pc.toNat then w else s.prog.load a

/-! ### The file registers -/

/-- R36: what `F[f]` reads from each cell; through INDF, the cell it stands for; a platform cell, a recorded value, which is
its level where `io_read` is the level and the platform drives one (log entry 12). For an unimplemented or
unwritten cell, the fault, or what the hardware does (h'00', some value), as the treatment says (log entries 3, 6, 7). -/
def Obligations.FileReadByCell : Prop :=
  ∀ (f : FileAddr) (s : State),
    (fileCell f s = .pcl → fileRead f s = .ok (BitVec.ofNat 8 s.pc.toNat, s)) ∧
    (fileCell f s = .status → fileRead f s = .ok (s.status, s)) ∧
    (fileCell f s = .pclath → fileRead f s = .ok (0b000#3 ++ s.pclath, s)) ∧
    (fileCell f s = .intcon → fileRead f s = .ok (s.intcon, s)) ∧
    (fileCell f s = .optionReg → fileRead f s = .ok (s.option, s)) ∧
    (fileCell f s = .fsr → fileRead f s = .ok (s.fsr, s)) ∧
    (fileCell f s = .indf → fileRead f s = readCell (indirectCell s) s) ∧
    (∀ n v, fileCell f s = .gpr n → s.ram.load n = some v → fileRead f s = .ok (v, s)) ∧
    (∀ n, fileCell f s = .gpr n → s.ram.load n = none → s.params.treatment = .verdict →
      fileRead f s = .error (.readUnwritten n)) ∧
    (∀ n, fileCell f s = .gpr n → s.ram.load n = none → s.params.treatment = .hardware →
      ∃ v, fileRead f s = .ok (v, s)) ∧
    (∀ name, fileCell f s = .io name → ∃ v,
      fileRead f s = .ok (v, { s with draws := s.draws + 1, ioLog := .read name v :: s.ioLog })) ∧
    (∀ name v, fileCell f s = .io name → s.params.ioReadSource = .level → s.ioLevels.load (ioNumber name) = some v →
      fileRead f s = .ok (v, { s with draws := s.draws + 1, ioLog := .read name v :: s.ioLog })) ∧
    (∀ a, fileCell f s = .unimplemented a → s.params.treatment = .verdict →
      fileRead f s = .error (.unimplementedFile a)) ∧
    (∀ a, fileCell f s = .unimplemented a → s.params.treatment = .hardware → fileRead f s = .ok (0x00#8, s))

/-- R37: what `F[f] <- v` does to each cell but STATUS and INDF, for any flag set of the instruction; to a platform cell,
the event, and its level where `io_write` is a latch (log entry 12). For an unimplemented
cell, the fault, or nothing, as the treatment says (log entries 3, 6). -/
def Obligations.FileWriteByCell : Prop :=
  ∀ (fl : FlagWrites) (f : FileAddr) (v : Byte) (s : State),
    (fileCell f s = .pcl → ∃ t, fileWrite fl f v s = .ok t ∧ t = { s with pc := t.pc } ∧
      t.pc.toNat = s.pclath.toNat * 256 + v.toNat) ∧
    (fileCell f s = .pclath → ∃ t, fileWrite fl f v s = .ok t ∧ t = { s with pclath := t.pclath } ∧
      t.pclath.toNat = v.toNat % 32) ∧
    (fileCell f s = .intcon → fileWrite fl f v s = .ok { s with intcon := v }) ∧
    (fileCell f s = .optionReg → fileWrite fl f v s = .ok { s with option := v }) ∧
    (fileCell f s = .fsr → fileWrite fl f v s = .ok { s with fsr := v }) ∧
    (∀ n, fileCell f s = .gpr n → ∃ t, fileWrite fl f v s = .ok t ∧ t = { s with ram := t.ram } ∧
      ∀ k, t.ram.load k = if k = n then some v else s.ram.load k) ∧
    (∀ name, fileCell f s = .io name → ∃ t, fileWrite fl f v s = .ok t ∧ WroteIo name v s t) ∧
    (∀ a, fileCell f s = .unimplemented a → s.params.treatment = .verdict →
      fileWrite fl f v s = .error (.unimplementedFile a)) ∧
    (∀ a, fileCell f s = .unimplemented a → s.params.treatment = .hardware → fileWrite fl f v s = .ok s)

/-- STATUS as the destination of an instruction that computes the flags `fl` (R38): TO and PD keep, a computed flag takes
the computed value, every other bit takes the bit of `v`. That this is so through INDF too (R39) is the model's inference
(log entry 28). -/
def Obligations.StatusAsDestination : Prop :=
  ∀ (fl : FlagWrites) (f : FileAddr) (v : Byte) (s : State), s.params.wf = true → effCell f s = .status →
    ∃ t, writeResult .f f v fl s = .ok t ∧ t = { s with status := t.status } ∧
      flagC t = fl.c.getD (v.getLsbD s.params.statusC) ∧ flagDC t = fl.dc.getD (v.getLsbD s.params.statusDC) ∧
      flagZ t = fl.z.getD (v.getLsbD s.params.statusZ) ∧ flagPD t = flagPD s ∧ flagTO t = flagTO s ∧
      t.status.getLsbD 5 = v.getLsbD 5 ∧ t.status.getLsbD 6 = v.getLsbD 6 ∧ t.status.getLsbD 7 = v.getLsbD 7

/-- R39: in REF84 an access through INDF is an access to the data address in FSR; INDF through itself reads h'00' and
discards the write; SRC-ONLY has neither INDF nor FSR. -/
def Obligations.IndirectAccess : Prop :=
  (∀ (fl : FlagWrites) (f : FileAddr) (v : Byte) (s : State), s.params.fileMap = .ref84 → fileCell f s = .indf →
    (ref84Cell s.fsr = .indf → fileRead f s = .ok (0x00#8, s) ∧ fileWrite fl f v s = .ok s) ∧
    (ref84Cell s.fsr ≠ .indf →
      fileRead f s = readCell (ref84Cell s.fsr) s ∧ fileWrite fl f v s = writeCell fl (ref84Cell s.fsr) v s)) ∧
  ∀ (f : FileAddr) (s : State), s.params.fileMap = .srcOnly → fileCell f s ≠ .indf ∧ fileCell f s ≠ .fsr

/-- R35, the map REF84, at every data address: the special registers of both banks, the platform cells, the 68 cells of
RAM with their mirror in bank 1, and the holes. SRC-ONLY: the source's three points, the four registers at the low 7 bits
of their open addresses where no two places agree, every other operand unimplemented. A table: the cell listed at
`STATUS[7:5] ++ f`. Every map has R22's three points in bank 0. That an operand holds the low 7 bits of an open address,
what a table's numbers mean, and that SRC-ONLY's RAM cell is number 3, are the model's choice (log entry 19). -/
def Obligations.FileMapOfTable : Prop :=
  (∀ a : Byte,
    (a.toNat % 128 = 0x00 → ref84Cell a = .indf) ∧ (a.toNat % 128 = 0x02 → ref84Cell a = .pcl) ∧
    (a.toNat % 128 = 0x03 → ref84Cell a = .status) ∧ (a.toNat % 128 = 0x04 → ref84Cell a = .fsr) ∧
    (a.toNat % 128 = 0x0A → ref84Cell a = .pclath) ∧ (a.toNat % 128 = 0x0B → ref84Cell a = .intcon) ∧
    (a.toNat % 128 = 0x07 ∨ 0x50 ≤ a.toNat % 128 → ref84Cell a = .unimplemented a) ∧
    (0x0C ≤ a.toNat % 128 ∧ a.toNat % 128 ≤ 0x4F → ref84Cell a = .gpr (a.toNat % 128 - 0x0C))) ∧
  ref84Cell 0x01#8 = .io .tmr0 ∧ ref84Cell 0x81#8 = .optionReg ∧
  ref84Cell 0x05#8 = .io .porta ∧ ref84Cell 0x85#8 = .io .trisa ∧
  ref84Cell 0x06#8 = .io .portb ∧ ref84Cell 0x86#8 = .io .trisb ∧
  ref84Cell 0x08#8 = .io .eedata ∧ ref84Cell 0x88#8 = .io .eecon1 ∧
  ref84Cell 0x09#8 = .io .eeadr ∧ ref84Cell 0x89#8 = .io .eecon2 ∧
  (∀ (s : State) (f : FileAddr), s.params.fileMap = .ref84 →
    fileCell f s = ref84Cell (BitVec.ofBool (s.status.getLsbD 5) ++ f)) ∧
  (∀ s : State, s.params.fileMap = .srcOnly →
    fileCell 0x03#7 s = .status ∧ fileCell 0x05#7 s = .io .porta ∧ fileCell 0x0F#7 s = .gpr 3 ∧
    (List.Nodup [0x03, 0x05, 0x0F, s.params.aPcl.toNat % 128, s.params.aPclath.toNat % 128,
        s.params.aIntcon.toNat % 128, s.params.aOption.toNat % 128] →
      ∀ f : FileAddr,
        (f.toNat = s.params.aPcl.toNat % 128 → fileCell f s = .pcl) ∧
        (f.toNat = s.params.aPclath.toNat % 128 → fileCell f s = .pclath) ∧
        (f.toNat = s.params.aIntcon.toNat % 128 → fileCell f s = .intcon) ∧
        (f.toNat = s.params.aOption.toNat % 128 → fileCell f s = .optionReg)) ∧
    ∀ f : FileAddr,
      f.toNat ∉ [0x03, 0x05, 0x0F, s.params.aPcl.toNat % 128, s.params.aPclath.toNat % 128,
        s.params.aIntcon.toNat % 128, s.params.aOption.toNat % 128] → ∃ a, fileCell f s = .unimplemented a) ∧
  (∀ (s : State) (cells : List (Nat × Cell)) (f : FileAddr), s.params.fileMap = .table cells →
    (∀ c, lookupAt (s.status.toNat / 32 * 128 + f.toNat) cells = some c → fileCell f s = c) ∧
    (lookupAt (s.status.toNat / 32 * 128 + f.toNat) cells = none → ∃ a, fileCell f s = .unimplemented a)) ∧
  ∀ s : State, s.params.wf = true → s.status.toNat < 32 →
    fileCell 0x03#7 s = .status ∧ fileCell 0x05#7 s = .io .porta ∧ ∃ n, fileCell 0x0F#7 s = .gpr n

/-- A read of a general-purpose cell gives the byte last written to that cell, through whatever operand either access
goes, and a write to one cell leaves every other as it was (R70 (b), R35, R39). -/
def Obligations.ReadSeesLatestWrite : Prop :=
  ∀ (fl : FlagWrites) (f g : FileAddr) (n k : Nat) (v : Byte) (s : State), effCell f s = .gpr n → effCell g s = .gpr k →
    ∃ t, fileWrite fl f v s = .ok t ∧ effCell g t = .gpr k ∧
      (k = n → fileRead g t = .ok (v, t)) ∧
      (k ≠ n → ∀ u, fileRead g s = .ok (u, s) → fileRead g t = .ok (u, t))

/-- Exactly when a file operand can be read or written, and what an instruction does where it cannot. It is a condition on
the state and the operand alone: in the treatment `verdict` the access must reach a cell (R36, R37), and a general-purpose
cell that is read must have been written (R41); that in the treatment `hardware` (R181) every operand can be read and
written is the model's choice (log entries 3, 6, 7). Where the read is a fault, every instruction that reads the operand is
that fault; where the write is, so are CLRF and MOVWF (R110 (d)), and no other instruction comes to such a write, since a
cell that was read can be written. -/
def Obligations.ReadableExactlyWhen : Prop :=
  ∀ (f : FileAddr) (s : State),
    (fileReadable f s ↔ ∃ v s1, fileRead f s = .ok (v, s1)) ∧
    (∀ e, fileRead f s = .error e ↔ NoCellFault f s e ∨ UnwrittenFault f s e) ∧
    (∀ e, fileRead f s = .error e → ∀ i, fileSource i = some f → exec i s = .fault e) ∧
    (∀ fl v, (fileWritable f s ↔ ∃ t, fileWrite fl f v s = .ok t) ∧
      ∀ e, fileWrite fl f v s = .error e ↔ NoCellFault f s e) ∧
    (∀ e, NoCellFault f s e → exec (.clrf f) s = .fault e ∧ exec (.movwf f) s = .fault e) ∧
    ∀ v s1, fileRead f s = .ok (v, s1) → ∀ fl r, ∃ t, fileWrite fl f r s1 = .ok t

/-! ### The stack and the program counter -/

/-- R27: push and pop. With room, the address goes on top; a full stack is the fault `StackOverflow`, or, on the
hardware, loses its oldest entry; the empty stack is the fault `StackUnderflow`, or, on the hardware, gives some entry (as
the treatment says: log entries 3, 4, 5). -/
def Obligations.StackDiscipline : Prop :=
  (∀ (a : Addr13) (s : State), s.stack.length < s.params.stackDepth → push a s = .ok { s with stack := a :: s.stack }) ∧
  (∀ (a : Addr13) (s : State), s.stack.length = s.params.stackDepth → s.params.treatment = .verdict →
    push a s = .error (.stackOverflow a)) ∧
  (∀ (a : Addr13) (s : State), s.params.wf = true → s.stack.length = s.params.stackDepth →
    s.params.treatment = .hardware →
    push a s = .ok { s with stack := a :: s.stack.dropLast }) ∧
  (∀ (a : Addr13) (rest : List Addr13) (s : State), s.stack = a :: rest → pop s = .ok (a, { s with stack := rest })) ∧
  (∀ s : State, s.stack = [] → s.params.treatment = .verdict → pop s = .error .stackUnderflow) ∧
  (∀ s : State, s.stack = [] → s.params.treatment = .hardware → ∃ a, pop s = .ok (a, { s with draws := s.draws + 1 }))

/-- R25 with conflict C3: `ADDWF PCL,1` is a computed jump to `PCLATH ++ (pc[7:0] + W)[7:0]`, and that is pc + W
where PCLATH holds the high bits of pc and the 8-bit sum does not carry. -/
def Obligations.ComputedJump : Prop :=
  ∀ (f : FileAddr) (s : State), fileCell f s = .pcl →
    ∃ t, exec (.addwf f .f) s = .next t ∧
      t.pc.toNat = s.pclath.toNat * 256 + (s.pc.toNat % 256 + s.w.toNat) % 256 ∧
      (s.pclath.toNat = s.pc.toNat / 256 → s.pc.toNat % 256 + s.w.toNat < 256 →
        t.pc.toNat = s.pc.toNat + s.w.toNat)

/-! ### Results of the byte-oriented instructions -/

/-- ADDWF and SUBWF (R110, R111, R126): the sum and the difference F - W modulo 2^8; C is the carry out of bit 7, or no
borrow; DC the same of the low four bits; Z where the result is zero; their words and cycles.
That a write to PCL through INDF takes 2 cycles too is the model's inference (log entry 25). -/
def Obligations.AddwfSubwfResult : Prop :=
  (∀ (f : FileAddr) (d : Dest),
    CodedWithFile (.addwf f d) (0b000111#6 ++ destBit d ++ f) (d = .f) f ∧
    CodedWithFile (.subwf f d) (0b000010#6 ++ destBit d ++ f) (d = .f) f) ∧
  ∀ (f : FileAddr) (d : Dest) (s s1 : State) (v : Byte), s.params.wf = true →
    fileRead f s = .ok (v, s1) →
    Completes (.addwf f d) d f s1 (BitVec.ofNat 8 (v.toNat + s.w.toNat))
      (some (decide (256 ≤ v.toNat + s.w.toNat))) (some (decide (16 ≤ v.toNat % 16 + s.w.toNat % 16)))
      (some (decide ((v.toNat + s.w.toNat) % 256 = 0))) s ∧
    Completes (.subwf f d) d f s1 (BitVec.ofNat 8 (256 + v.toNat - s.w.toNat))
      (some (decide (s.w.toNat ≤ v.toNat))) (some (decide (s.w.toNat % 16 ≤ v.toNat % 16)))
      (some (decide (v = s.w))) s

/-- ANDWF, IORWF, XORWF, COMF (R112, R120, R128, R115): the operation on each bit, Z, their words and
cycles.
That a write to PCL through INDF takes 2 cycles too is the model's inference (log entry 25). -/
def Obligations.LogicByteResult : Prop :=
  (∀ (f : FileAddr) (d : Dest),
    CodedWithFile (.andwf f d) (0b000101#6 ++ destBit d ++ f) (d = .f) f ∧
    CodedWithFile (.iorwf f d) (0b000100#6 ++ destBit d ++ f) (d = .f) f ∧
    CodedWithFile (.xorwf f d) (0b000110#6 ++ destBit d ++ f) (d = .f) f ∧
    CodedWithFile (.comf f d) (0b001001#6 ++ destBit d ++ f) (d = .f) f) ∧
  ∀ (f : FileAddr) (d : Dest) (s s1 : State) (v : Byte), s.params.wf = true →
    fileRead f s = .ok (v, s1) →
    (∃ r : Byte, (∀ j, j < 8 → r.getLsbD j = (s.w.getLsbD j && v.getLsbD j)) ∧
      Completes (.andwf f d) d f s1 r none none (some (decide (r.toNat = 0))) s) ∧
    (∃ r : Byte, (∀ j, j < 8 → r.getLsbD j = (s.w.getLsbD j || v.getLsbD j)) ∧
      Completes (.iorwf f d) d f s1 r none none (some (decide (s.w.toNat = 0 ∧ v.toNat = 0))) s) ∧
    (∃ r : Byte, (∀ j, j < 8 → r.getLsbD j = (s.w.getLsbD j ^^ v.getLsbD j)) ∧
      Completes (.xorwf f d) d f s1 r none none (some (decide (s.w = v))) s) ∧
    ∃ r : Byte, (∀ j, j < 8 → r.getLsbD j = !v.getLsbD j) ∧
      Completes (.comf f d) d f s1 r none none (some (decide (v.toNat = 255))) s

/-- INCF, DECF, MOVF (R118, R116, R121): modulo 2^8, Z alone; their words and cycles.
That a write to PCL through INDF takes 2 cycles too is the model's inference (log entry 25). -/
def Obligations.IncDecMoveResult : Prop :=
  (∀ (f : FileAddr) (d : Dest),
    CodedWithFile (.incf f d) (0b001010#6 ++ destBit d ++ f) (d = .f) f ∧
    CodedWithFile (.decf f d) (0b000011#6 ++ destBit d ++ f) (d = .f) f ∧
    CodedWithFile (.movf f d) (0b001000#6 ++ destBit d ++ f) (d = .f) f) ∧
  ∀ (f : FileAddr) (d : Dest) (s s1 : State) (v : Byte), s.params.wf = true →
    fileRead f s = .ok (v, s1) →
    Completes (.incf f d) d f s1 (BitVec.ofNat 8 (v.toNat + 1)) none none (some (decide (v.toNat = 255))) s ∧
    Completes (.decf f d) d f s1 (BitVec.ofNat 8 (v.toNat + 255)) none none (some (decide (v.toNat = 1))) s ∧
    Completes (.movf f d) d f s1 v none none (some (decide (v.toNat = 0))) s

/-- RLF and RRF (R124, R125): the nine-bit rotation through C, in numbers; C is the bit that leaves; Z is not written;
their words and cycles.
That a write to PCL through INDF takes 2 cycles too is the model's inference (log entry 25). -/
def Obligations.RotateResult : Prop :=
  (∀ (f : FileAddr) (d : Dest),
    CodedWithFile (.rlf f d) (0b001101#6 ++ destBit d ++ f) (d = .f) f ∧
    CodedWithFile (.rrf f d) (0b001100#6 ++ destBit d ++ f) (d = .f) f) ∧
  ∀ (f : FileAddr) (d : Dest) (s s1 : State) (v : Byte), s.params.wf = true →
    fileRead f s = .ok (v, s1) →
    Completes (.rlf f d) d f s1 (BitVec.ofNat 8 (2 * v.toNat + (flagC s).toNat))
      (some (decide (128 ≤ v.toNat))) none none s ∧
    Completes (.rrf f d) d f s1 (BitVec.ofNat 8 (v.toNat / 2 + 128 * (flagC s).toNat))
      (some (decide (v.toNat % 2 = 1))) none none s

/-- SWAPF (R127): the nibbles exchanged, no flag. CLRF (R113) and MOVWF (R122): the register written without being read;
CLRF sets Z, MOVWF writes no flag and leaves W; their words and cycles.
That a write to PCL through INDF takes 2 cycles too (log entry 25), and that CLRF and MOVWF go on at an unimplemented
address in the treatment `hardware` (log entries 3, 6), is the model's. -/
def Obligations.SwapClearStoreResult : Prop :=
  (∀ (f : FileAddr) (d : Dest), CodedWithFile (.swapf f d) (0b001110#6 ++ destBit d ++ f) (d = .f) f ∧
    CodedWithFile (.clrf f) (0b0000011#7 ++ f) True f ∧ CodedWithFile (.movwf f) (0b0000001#7 ++ f) True f) ∧
  (∀ (f : FileAddr) (d : Dest) (s s1 : State) (v : Byte), s.params.wf = true →
    fileRead f s = .ok (v, s1) →
    Completes (.swapf f d) d f s1 (BitVec.ofNat 8 (v.toNat % 16 * 16 + v.toNat / 16)) none none none s) ∧
  ∀ (f : FileAddr) (s : State), s.params.wf = true → fileWritable f s →
    Completes (.clrf f) .f f s 0x00#8 none none (some true) s ∧
    Completes (.movwf f) .f f s s.w none none none s

/-- DECFSZ and INCFSZ (R117, R119): their words (R87), and, but for the form that names PCL as destination, the result
modulo 2^8, then a skip where it is zero; DECFSZ writes no flag, INCFSZ writes Z only where INCFSZ_WRITES_Z. That the form
which reaches PCL through INDF writes, then skips, is the model's inference (log entry 24). -/
def Obligations.SkipCounterResult : Prop :=
  (∀ (f : FileAddr) (d : Dest), decode (0b001011#6 ++ destBit d ++ f) = some (.decfsz f d) ∧
    decode (0b001111#6 ++ destBit d ++ f) = some (.incfsz f d)) ∧
  ∀ (f : FileAddr) (d : Dest) (s s1 : State) (v : Byte), s.params.wf = true →
    ¬(d = .f ∧ fileCell f s = .pcl) → fileRead f s = .ok (v, s1) →
    (∃ s2, writeDest ⟨none, none, none⟩ d f (BitVec.ofNat 8 (v.toNat + 255)) s1 = .ok s2 ∧
      exec (.decfsz f d) s = .next (if v.toNat = 1 then { s2 with pc := s2.pc + 1#13 } else s2)) ∧
    ∀ z, z = (if s.params.incfszWritesZ then some (decide (v.toNat = 255)) else none) →
      ∃ s2 t, writeDest ⟨none, none, z⟩ d f (BitVec.ofNat 8 (v.toNat + 1)) s1 = .ok s2 ∧ StatusAfter none none z s2 t ∧
        exec (.incfsz f d) s = .next (if v.toNat = 255 then { t with pc := t.pc + 1#13 } else t)

/-- DECFSZ and INCFSZ with destination PCL (R117, R119, D20; log entry 11): the fault `UnmodelledForm`, or, on the
hardware, which the model takes to run on, some program counter, and nothing else that is the machine's changes but the
Z of INCFSZ_WRITES_Z. -/
def Obligations.SkipCounterOnPcl : Prop :=
  ∀ (f : FileAddr) (s : State), s.params.wf = true → fileCell f s = .pcl →
    (s.params.treatment = .verdict →
      exec (.decfsz f .f) s = .fault .unmodelledForm ∧ exec (.incfsz f .f) s = .fault .unmodelledForm) ∧
    (s.params.treatment = .hardware →
      (∃ a, exec (.decfsz f .f) s = .next { s with pc := a, draws := s.draws + 1 }) ∧
      ∃ a t, exec (.incfsz f .f) s = .next { t with pc := a, draws := s.draws + 1 } ∧
        StatusAfter none none (if s.params.incfszWritesZ then some (decide (s.pc.toNat % 256 = 255)) else none) s t)

/-! ### Results of the bit-oriented instructions -/

/-- BCF and BSF (R141, R142): the whole register read and written back with bit `b` cleared or set; no flag list; their
words and cycles.
That a write to PCL through INDF takes 2 cycles too is the model's inference (log entry 25). -/
def Obligations.BitClearSetResult : Prop :=
  (∀ (f : FileAddr) (b : BitPos),
    CodedWithFile (.bcf f b) (0b0100#4 ++ b ++ f) True f ∧ CodedWithFile (.bsf f b) (0b0101#4 ++ b ++ f) True f) ∧
  ∀ (f : FileAddr) (b : BitPos) (s s1 : State) (v : Byte), fileRead f s = .ok (v, s1) →
    (∃ (r : Byte) (t : State), (∀ j, j < 8 → r.getLsbD j = (decide (j ≠ b.toNat) && v.getLsbD j)) ∧
      fileWrite ⟨none, none, none⟩ f r s1 = .ok t ∧ exec (.bcf f b) s = .next t) ∧
    ∃ (r : Byte) (t : State), (∀ j, j < 8 → r.getLsbD j = (decide (j = b.toNat) || v.getLsbD j)) ∧
      fileWrite ⟨none, none, none⟩ f r s1 = .ok t ∧ exec (.bsf f b) s = .next t

/-- BTFSC and BTFSS (R143, R144): the skip, and nothing written; their words, and 2 cycles where the skip is taken. -/
def Obligations.BitTestResult : Prop :=
  (∀ (f : FileAddr) (b : BitPos),
    decode (0b0110#4 ++ b ++ f) = some (.btfsc f b) ∧ decode (0b0111#4 ++ b ++ f) = some (.btfss f b)) ∧
  ∀ (f : FileAddr) (b : BitPos) (s s1 : State) (v : Byte), fileRead f s = .ok (v, s1) →
    cycles (.btfsc f b) s s1 = 1 ∧ cycles (.btfsc f b) s { s1 with pc := s1.pc + 1#13 } = 2 ∧
    cycles (.btfss f b) s s1 = 1 ∧ cycles (.btfss f b) s { s1 with pc := s1.pc + 1#13 } = 2 ∧
    exec (.btfsc f b) s = .next (if v.toNat.testBit b.toNat then s1 else { s1 with pc := s1.pc + 1#13 }) ∧
    exec (.btfss f b) s = .next (if v.toNat.testBit b.toNat then { s1 with pc := s1.pc + 1#13 } else s1)

/-! ### Results of the literal, control and branch instructions -/

/-- ADDLW and SUBLW (R151, R155): W + k and k - W, with C, DC, Z; their words and cycles. -/
def Obligations.AddlwSublwResult : Prop :=
  (∀ (x : BitVec 1) (k : Byte),
    CodedAs (.addlw k) (0b11111#5 ++ x ++ k) 1 ∧ CodedAs (.sublw k) (0b11110#5 ++ x ++ k) 1) ∧
  ∀ (k : Byte) (s : State), s.params.wf = true →
    (∃ t, exec (.addlw k) s = .next t ∧
      StatusAfter (some (decide (256 ≤ s.w.toNat + k.toNat))) (some (decide (16 ≤ s.w.toNat % 16 + k.toNat % 16)))
        (some (decide ((s.w.toNat + k.toNat) % 256 = 0))) { s with w := BitVec.ofNat 8 (s.w.toNat + k.toNat) } t) ∧
    ∃ t, exec (.sublw k) s = .next t ∧
      StatusAfter (some (decide (s.w.toNat ≤ k.toNat))) (some (decide (s.w.toNat % 16 ≤ k.toNat % 16)))
        (some (decide (k = s.w))) { s with w := BitVec.ofNat 8 (256 + k.toNat - s.w.toNat) } t

/-- ANDLW, IORLW, XORLW (R152, R153, R156) with Z; MOVLW (R154) with no flag; CLRW (R114) sets Z; their
words and cycles. -/
def Obligations.LogicLiteralResult : Prop :=
  (∀ (k : Byte), CodedAs (.andlw k) (0b111001#6 ++ k) 1 ∧ CodedAs (.iorlw k) (0b111000#6 ++ k) 1 ∧
    CodedAs (.xorlw k) (0b111010#6 ++ k) 1) ∧
  (∀ (x : BitVec 2) (k : Byte), CodedAs (.movlw k) (0b1100#4 ++ x ++ k) 1) ∧
  (∀ x : BitVec 7, CodedAs .clrw (0b0000010#7 ++ x) 1) ∧
  ∀ (k : Byte) (s : State), s.params.wf = true →
    (∃ t, exec (.andlw k) s = .next t ∧
      StatusAfter none none (some (decide ((s.w &&& k).toNat = 0))) { s with w := s.w &&& k } t) ∧
    (∃ t, exec (.iorlw k) s = .next t ∧
      StatusAfter none none (some (decide (s.w.toNat = 0 ∧ k.toNat = 0))) { s with w := s.w ||| k } t) ∧
    (∃ t, exec (.xorlw k) s = .next t ∧ StatusAfter none none (some (decide (s.w = k))) { s with w := s.w ^^^ k } t) ∧
    exec (.movlw k) s = .next { s with w := k } ∧
    ∃ t, exec .clrw s = .next t ∧ StatusAfter none none (some true) { s with w := 0x00#8 } t

/-- RETURN, RETLW, RETFIE (R163, R157, R162): pc from the top of the stack, all 13 bits; RETLW loads W, RETFIE sets GIE.
On the empty stack: the fault `StackUnderflow`, or, on the hardware, some address (log entries 3, 5). Their words and
cycles. -/
def Obligations.ReturnsResult : Prop :=
  CodedAs .ret 0b00000000001000#14 2 ∧ CodedAs .retfie 0b00000000001001#14 2 ∧
  (∀ (x : BitVec 2) (k : Byte), CodedAs (.retlw k) (0b1101#4 ++ x ++ k) 2) ∧
  (∀ (a : Addr13) (rest : List Addr13) (k : Byte) (s : State), s.stack = a :: rest →
    exec .ret s = .next { s with pc := a, stack := rest } ∧
    exec (.retlw k) s = .next { s with w := k, pc := a, stack := rest } ∧
    exec .retfie s = .next { s with pc := a, stack := rest, intcon := s.intcon ||| (1#8 <<< s.params.intconGIE.val) }) ∧
  (∀ (k : Byte) (s : State), s.stack = [] → s.params.treatment = .verdict →
    exec .ret s = .fault .stackUnderflow ∧ exec (.retlw k) s = .fault .stackUnderflow ∧
    exec .retfie s = .fault .stackUnderflow) ∧
  ∀ (k : Byte) (s : State), s.stack = [] → s.params.treatment = .hardware →
    ∃ a, exec .ret s = .next { s with pc := a, draws := s.draws + 1 } ∧
      exec (.retlw k) s = .next { s with w := k, pc := a, draws := s.draws + 1 } ∧
      exec .retfie s = .next { s with pc := a, draws := s.draws + 1, intcon := s.intcon ||| (1#8 <<< s.params.intconGIE.val) }

/-- CALL and GOTO (R170, R171): the target is PCLATH[4:3] and the 11 bits of `k`; CALL pushes pc, the address of the next
instruction; on a full stack, the fault `StackOverflow`, or the loss of the oldest entry (R181, as the treatment says: log
entries 3, 4). Their words and cycles. -/
def Obligations.CallGotoResult : Prop :=
  (∀ k : Addr11, CodedAs (.call k) (0b100#3 ++ k) 2 ∧ CodedAs (.goto k) (0b101#3 ++ k) 2) ∧
  ∀ (k : Addr11) (s : State) (a : Addr13), a.toNat = s.pclath.toNat / 8 * 2048 + k.toNat →
    exec (.goto k) s = .next { s with pc := a } ∧
    (s.stack.length < s.params.stackDepth → exec (.call k) s = .next { s with pc := a, stack := s.pc :: s.stack }) ∧
    (s.stack.length = s.params.stackDepth → s.params.treatment = .verdict → exec (.call k) s = .fault (.stackOverflow s.pc)) ∧
    (s.params.wf = true → s.stack.length = s.params.stackDepth → s.params.treatment = .hardware →
      exec (.call k) s = .next { s with pc := a, stack := s.pc :: s.stack.dropLast })

/-- CLRWDT, SLEEP, OPTION, NOP (R160, R164, R161, R123): the effect, the words and the cycles. -/
def Obligations.ControlResult : Prop :=
  CodedAs .clrwdt 0b00000001100100#14 1 ∧ CodedAs .sleep 0b00000001100011#14 1 ∧ CodedAs .option 0b00000001100010#14 1 ∧
  (∀ x : BitVec 2, CodedAs .nop (0b0000000#7 ++ x ++ 0b00000#5) 1) ∧
  ∀ s : State,
    (s.params.wf = true →
      (∃ t, exec .clrwdt s = .next t ∧ t = { s with wdt := 0, wdtPrescaler := 0, status := t.status } ∧
        flagTO t = true ∧ flagPD t = true ∧ SameButToPd s t) ∧
      ∃ t, exec .sleep s = .next t ∧ t = { s with wdt := 0, wdtPrescaler := 0, status := t.status, asleep := true } ∧
        flagTO t = true ∧ flagPD t = false ∧ SameButToPd s t) ∧
    exec .option s = .next { s with option := s.w } ∧ exec .nop s = .next s

/-- TRIS (R165): the fault `UnmodelledForm`, or, on the hardware, a write of W to TRISA, TRISB or TRISC, an output event
that changes no core state and no flag, the same under every file map (log entry 10); its three words and its cycle. -/
def Obligations.TrisResult : Prop :=
  CodedAs (.tris 5#3) 0b00000001100101#14 1 ∧ CodedAs (.tris 6#3) 0b00000001100110#14 1 ∧
  CodedAs (.tris 7#3) 0b00000001100111#14 1 ∧
  ∀ s : State,
    (s.params.treatment = .verdict → ∀ f, exec (.tris f) s = .fault .unmodelledForm) ∧
    (s.params.treatment = .hardware →
      (∃ t, exec (.tris 5#3) s = .next t ∧ WroteIo .trisa s.w s t) ∧
      (∃ t, exec (.tris 6#3) s = .next t ∧ WroteIo .trisb s.w s t) ∧
      ∃ t, exec (.tris 7#3) s = .next t ∧ WroteIo .trisc s.w s t)

/-! ### Frames -/

/-- The byte-oriented instructions with destination W: only W and the flags listed change; no byte of memory does; a
platform cell records the read. -/
def Obligations.FrameOfByteToW : Prop :=
  ∀ (f : FileAddr), ∀ i ∈ [Instr.addwf f .w, .andwf f .w, .comf f .w, .decf f .w, .incf f .w, .iorwf f .w, .movf f .w,
      .rlf f .w, .rrf f .w, .subwf f .w, .swapf f .w, .xorwf f .w],
    ∀ s t : State, s.params.wf = true → exec i s = .next t →
      t = { s with w := t.w, status := t.status, ioLog := t.ioLog, draws := t.draws } ∧
      OtherStatusBits i s t ∧ SameMemory s t ∧ SameIo f s t

/-- The instructions that write a file register and do not skip: only the cell that `f` reaches and the flags listed
change; the program counter only where the cell is PCL; no byte of memory but that cell. -/
def Obligations.FrameOfFileWrites : Prop :=
  ∀ (f : FileAddr) (b : BitPos), ∀ i ∈ [Instr.addwf f .f, .andwf f .f, .comf f .f, .decf f .f, .incf f .f, .iorwf f .f,
      .movf f .f, .rlf f .f, .rrf f .f, .subwf f .f, .swapf f .f, .xorwf f .f, .clrf f, .movwf f, .bcf f b, .bsf f b],
    ∀ s t : State, s.params.wf = true → exec i s = .next t → FileFrame i f s t ∧ (effCell f s ≠ .pcl → t.pc = s.pc)

/-- The skip instructions: DECFSZ and INCFSZ change their destination alone (and Z by the parameter of INCFSZ), BTFSC and
BTFSS nothing; the program counter goes on or skips one instruction, but for a file write to PCL. The form that names PCL
itself as destination is the subject of `SkipCounterOnPcl`. -/
def Obligations.FrameOfSkips : Prop :=
  ∀ (f : FileAddr) (b : BitPos) (s t : State), s.params.wf = true →
    (∀ i ∈ [Instr.decfsz f .f, .incfsz f .f], exec i s = .next t → fileCell f s ≠ .pcl →
      FileFrame i f s t ∧ (effCell f s ≠ .pcl → t.pc = s.pc ∨ t.pc = s.pc + 1#13)) ∧
    (∀ i ∈ [Instr.decfsz f .w, .incfsz f .w], exec i s = .next t →
      t = { s with w := t.w, status := t.status, pc := t.pc, ioLog := t.ioLog, draws := t.draws } ∧
      OtherStatusBits i s t ∧ SameMemory s t ∧ SameIo f s t ∧ (t.pc = s.pc ∨ t.pc = s.pc + 1#13)) ∧
    ∀ i ∈ [Instr.btfsc f b, .btfss f b], exec i s = .next t →
      t = { s with pc := t.pc, ioLog := t.ioLog, draws := t.draws } ∧ SameMemory s t ∧ SameIo f s t ∧
      (t.pc = s.pc ∨ t.pc = s.pc + 1#13)

/-- The literal instructions and CLRW: only W and the flags listed change (R150). -/
def Obligations.FrameOfLiterals : Prop :=
  ∀ (k : Byte), ∀ i ∈ [Instr.addlw k, .andlw k, .iorlw k, .movlw k, .sublw k, .xorlw k, .clrw],
    ∀ s t : State, s.params.wf = true → exec i s = .next t →
      t = { s with w := t.w, status := t.status } ∧ OtherStatusBits i s t ∧ SameMemory s t

/-- The calls, jumps and returns: the program counter and the stack alone, the stack not at all by GOTO; W by RETLW, GIE
by RETFIE; PCLATH never (R172 (b)); the draw counter only on the empty stack. -/
def Obligations.FrameOfTransfers : Prop :=
  ∀ (k : Byte) (a : Addr11) (s t : State),
    (exec (.goto a) s = .next t → t = { s with pc := t.pc } ∧ SameMemory s t) ∧
    (exec (.call a) s = .next t → t = { s with pc := t.pc, stack := t.stack } ∧ SameMemory s t) ∧
    (exec .ret s = .next t → t = { s with pc := t.pc, stack := t.stack, draws := t.draws } ∧ SameMemory s t) ∧
    (exec (.retlw k) s = .next t →
      t = { s with pc := t.pc, stack := t.stack, draws := t.draws, w := k } ∧ SameMemory s t) ∧
    (exec .retfie s = .next t →
      t = { s with pc := t.pc, stack := t.stack, draws := t.draws, intcon := t.intcon } ∧
      (∀ j, j ≠ s.params.intconGIE.val → t.intcon.getLsbD j = s.intcon.getLsbD j) ∧ SameMemory s t) ∧
    ∀ i ∈ [Instr.ret, .retlw k, .retfie], exec i s = .next t → s.stack ≠ [] → t.draws = s.draws

/-- CLRWDT, SLEEP, OPTION, NOP, TRIS: what each may change, and no byte of memory. That TRIS answers at all, in the treatment
`hardware` and under every file map, is the model's choice (log entry 10: R165's own operation is the fault
`UnmodelledForm`); that it may set the level of a platform cell is the choice of log entry 12. -/
def Obligations.FrameOfControls : Prop :=
  ∀ (f : BitVec 3) (s t : State),
    (exec .clrwdt s = .next t → t = { s with wdt := t.wdt, wdtPrescaler := t.wdtPrescaler, status := t.status } ∧
      SameButToPd s t ∧ SameMemory s t) ∧
    (exec .sleep s = .next t →
      t = { s with wdt := t.wdt, wdtPrescaler := t.wdtPrescaler, status := t.status, asleep := t.asleep } ∧
      SameButToPd s t ∧ SameMemory s t) ∧
    (exec .option s = .next t → t = { s with option := t.option } ∧ SameMemory s t) ∧
    (exec .nop s = .next t → t = s) ∧
    (exec (.tris f) s = .next t →
      t = { s with ioLog := t.ioLog, ioLevels := t.ioLevels } ∧
      (s.params.ioWriteEffect = .record → t.ioLevels = s.ioLevels) ∧ SameMemory s t)

/-! ### Rules over all instructions -/

/-- R29: an instruction not listed for C, DC or Z leaves that flag as it was, unless it writes STATUS as its destination. -/
def Obligations.FlagTableHolds : Prop :=
  ∀ (i : Instr) (s t : State), s.params.wf = true → exec i s = .next t → ¬WritesCell i .status s →
    (¬writesC i → flagC t = flagC s) ∧ (¬writesDC i → flagDC t = flagDC s) ∧ (¬writesZ s.params i → flagZ t = flagZ s) ∧
    ∀ j, 5 ≤ j → t.status.getLsbD j = s.status.getLsbD j

/-- TO and PD are changed by CLRWDT and SLEEP alone among the instructions, never by a file write, not even to STATUS
(R38, R29). -/
def Obligations.ToPdOnlyByClrwdtSleep : Prop :=
  ∀ (i : Instr) (s t : State), s.params.wf = true → exec i s = .next t → i ≠ .clrwdt → i ≠ .sleep →
    flagTO t = flagTO s ∧ flagPD t = flagPD s

/-- The stack changes by CALL, RETURN, RETLW and RETFIE alone among the instructions, W by the instructions of R20 alone, the
sleep state by SLEEP, the watchdog cells by CLRWDT and SLEEP (R27, R20, R33, R32). -/
def Obligations.HiddenStateChangesByName : Prop :=
  ∀ (i : Instr) (s t : State), exec i s = .next t →
    (t.stack ≠ s.stack → (∃ k, i = .call k) ∨ i = .ret ∨ (∃ k, i = .retlw k) ∨ i = .retfie) ∧
    (t.asleep ≠ s.asleep → i = .sleep) ∧
    (t.wdt ≠ s.wdt ∨ t.wdtPrescaler ≠ s.wdtPrescaler → i = .clrwdt ∨ i = .sleep) ∧
    (t.w ≠ s.w → writesW i)

/-- PCLATH changes only where an instruction names it as its destination file register (R26); so do FSR, and, but for
RETFIE and OPTION, INTCON and the OPTION register; a general-purpose cell only where it is the destination. -/
def Obligations.SpecialRegistersChangeByName : Prop :=
  ∀ (i : Instr) (s t : State), exec i s = .next t →
    (¬WritesCell i .pclath s → t.pclath = s.pclath) ∧
    (¬WritesCell i .fsr s → t.fsr = s.fsr) ∧
    (¬WritesCell i .intcon s → i ≠ .retfie → t.intcon = s.intcon) ∧
    (¬WritesCell i .optionReg s → i ≠ .option → t.option = s.option) ∧
    ∀ n, ¬WritesCell i (.gpr n) s → t.ram.load n = s.ram.load n

/-- No step writes program memory: the word fetched from an address is the same for the whole run (R40, R73); nor a
parameter (R4; that the parameters stand in the state is the model's choice, log entry 29). -/
def Obligations.ProgramMemoryConstant : Prop :=
  ∀ (k : Nat) (s t : State), Host.Core.run core k s = .next t →
    t.params = s.params ∧ ∀ a, progRead a t = progRead a s

/-- Events recorded at platform cells never reach the core: two states that differ only in that record step alike (a
write to a platform cell changes no core state, R35). -/
def Obligations.IoRecordInvisible : Prop :=
  ∀ s1 s2 : State, SameButLog s1 s2 →
    (∀ t1, step s1 = .next t1 → ∃ t2, step s2 = .next t2 ∧ SameButLog t1 t2) ∧
    (∀ e, step s1 = .fault e → step s2 = .fault e) ∧ ∀ r, step s1 ≠ .refused r

/-! ### Interrupts, sleep, watchdog, reset -/

/-- Interrupt entry (R186): with GIE = 1 and `irq` once the input of the boundary is taken, before an instruction: GIE
cleared, pc pushed, the step goes on with the fetch at INT_VECTOR. A full stack faults, or loses its oldest entry, as the
treatment says (R27, R181; log entries 3, 4). With GIE = 0, or `irq` false, the step fetches at pc. -/
def Obligations.InterruptEntryStep : Prop :=
  ∀ s u : State, Arrived s u → u.asleep = false →
    (flagGIE u = true → irq u = true → u.params.intVector.toNat < u.params.progWords →
      (∀ i : Instr, u.stack.length < u.params.stackDepth → decode (progRead u.params.intVector u) = some i →
        step s = exec i { u with
          intcon := u.intcon &&& ~~~(1#8 <<< u.params.intconGIE.val)
          stack := u.pc :: u.stack
          pc := u.params.intVector + 1#13 }) ∧
      ∀ i : Instr, u.params.wf = true → u.stack.length = u.params.stackDepth → u.params.treatment = .hardware →
        decode (progRead u.params.intVector u) = some i →
        step s = exec i { u with
          intcon := u.intcon &&& ~~~(1#8 <<< u.params.intconGIE.val)
          stack := u.pc :: u.stack.dropLast
          pc := u.params.intVector + 1#13 }) ∧
    (flagGIE u = true → irq u = true → u.stack.length = u.params.stackDepth → u.params.treatment = .verdict →
      step s = .fault (.stackOverflow u.pc)) ∧
    (flagGIE u = false ∨ irq u = false → u.pc.toNat < u.params.progWords →
      ∀ i : Instr, decode (progRead u.pc u) = some i → step s = exec i { u with pc := u.pc + 1#13 })

/-- R183. Between two instructions the platform may set any of the flags T0IF, INTF and RBIF together, set or clear EEIF, and
drive the request line: the boundary, asleep or awake, is then the one without an input from the state with them set; it
never changes GIE (R184). The
request: the constant false; REF84's formula, timer 0, the pin INT, port B and the EEPROM, each by its own enable and
flag; or the line (log entries 13, 14). -/
def Obligations.InterruptRequestFormula : Prop :=
  (∀ s u : State, Arrived s u → boundary s = boundaryQuiet u ∧ flagGIE u = flagGIE s) ∧
  ∀ s : State,
    (s.params.irqSource = .never → irq s = false) ∧
    (s.params.irqSource = .line → irq s = s.irqLine) ∧
    (s.params.irqSource = .ref84 →
      (irq s = true ↔
        (s.intcon.getLsbD 5 = true ∧ s.intcon.getLsbD 2 = true) ∨ (s.intcon.getLsbD 4 = true ∧ s.intcon.getLsbD 1 = true) ∨
        (s.intcon.getLsbD 3 = true ∧ s.intcon.getLsbD 0 = true) ∨ (s.intcon.getLsbD 6 = true ∧ s.eeif = true)))

/-- R187: a handler that leaves the stack as it found it and ends with RETFIE resumes at the interrupted pc with GIE = 1
and the stack as before the entry; nothing else that the handler left is changed. -/
def Obligations.InterruptRoundTrip : Prop :=
  ∀ s : State, s.stack.length < s.params.stackDepth →
    ∃ s1, interruptEntry s = .ok s1 ∧ flagGIE s1 = false ∧ s1.pc = s.params.intVector ∧
      ∀ h : State, h.stack = s1.stack →
        exec .retfie h =
          .next { h with pc := s.pc, stack := s.stack, intcon := h.intcon ||| (1#8 <<< h.params.intconGIE.val) }

/-- R194: a core asleep with no input to come and no request stays as it is, for any number of steps; with an input that
brings no request, the step takes the input and nothing else (that such a step answers a next state is the model's choice:
log entry 15). -/
def Obligations.SleepHolds : Prop :=
  (∀ (k : Nat) (s : State), s.asleep = true → s.inputs = [] → irq s = false → Host.Core.run core k s = .next s) ∧
  ∀ s u : State, Arrived s u → u.asleep = true → irq u = false → step s = .next u

/-- R195 (c): a request, once the input of the boundary is taken, wakes the core, whatever GIE is, TO and PD unchanged, and
the instruction at pc runs first; so the timer-0 flag wakes REF84, whose GIE is bit 7, where T0IE is set, the level of EEIF
where EEIE is. That the instruction runs in the same step, and that a request which the core already held is one that wakes
it, are the model's choices (log entry 16). -/
def Obligations.WakeByInterrupt : Prop :=
  (∀ (s u : State) (i : Instr), Arrived s u → u.asleep = true → irq u = true → u.pc.toNat < u.params.progWords →
    decode (progRead u.pc u) = some i → step s = exec i { u with asleep := false, pc := u.pc + 1#13 }) ∧
  ∀ (x : PlatformInput) (rest : List PlatformInput) (s u : State), Took x rest s u →
    s.params.irqSource = .ref84 → s.params.intconGIE = 7 →
    (x.timer0Overflow = true → s.intcon.getLsbD 5 = true → irq u = true) ∧
    (x.externalInterrupt = true → s.intcon.getLsbD 4 = true → irq u = true) ∧
    (x.portBChange = true → s.intcon.getLsbD 3 = true → irq u = true) ∧
    (x.eeif = some true → s.intcon.getLsbD 6 = true → irq u = true)

/-- R190: a watchdog time-out. Awake: a reset with TO = 0, PD = 1, which keeps W, RAM, FSR and C, DC, Z. Asleep: the core
wakes with TO = 0 and goes on at pc, PD as it was (0, by the invariant). Where WDT_ENABLED is false the event is none. What a
reset keeps, and INTCON bits 2 to 0, are the model's choice (log entries 17, 18); that the instruction at pc runs in the
step of the wake, before any interrupt, is its inference (log entry 16). -/
def Obligations.WatchdogTimeout : Prop :=
  ∀ (x : PlatformInput) (rest : List PlatformInput) (s u : State), Took x rest s u → x.event = some .watchdogTimeout →
    (s.params.wf = true → s.params.wdtEnabled = true → s.asleep = false → ∃ t, step s = .next t ∧
      t = { u with pc := s.params.resetVector, stack := [], pclath := 0#5, option := 0xFF#8, wdt := 0, wdtPrescaler := 0,
                   intcon := u.intcon &&& 0x01#8 &&& ~~~(1#8 <<< s.params.intconGIE.val), status := t.status } ∧
      flagTO t = false ∧ flagPD t = true ∧ (∀ j, 5 ≤ j → t.status.getLsbD j = false) ∧
      flagC t = flagC s ∧ flagDC t = flagDC s ∧ flagZ t = flagZ s) ∧
    (s.params.wdtEnabled = true → s.asleep = true → s.pc.toNat < s.params.progWords →
      ∀ i, decode (progRead s.pc s) = some i →
      step s = exec i
        { u with asleep := false, status := s.status &&& ~~~(1#8 <<< s.params.statusTO.val), pc := s.pc + 1#13 }) ∧
    (s.params.wdtEnabled = false → step s = step { s with inputs := { x with event := none } :: rest })

/-- R210: the two other resets, each before anything else. Power-on leaves the table of R41. The external reset leaves it
but for W, C, DC, Z, FSR and RAM, which keep (and TO and PD, which nothing states); that these keep is the model's choice,
since R210 lets a model keep or forget them (log entry 17). Both wake the core. What INTCON bits 2 to 0 hold is the model's
choice too (log entries 9, 17). -/
def Obligations.ResetEvents : Prop :=
  ∀ (x : PlatformInput) (rest : List PlatformInput) (s u : State), Took x rest s u →
    (x.event = some .powerOnReset → ∃ t, step s = .next t ∧
      t.pc = s.params.resetVector ∧ t.stack = [] ∧ t.pclath = 0#5 ∧ flagGIE t = false ∧ t.intcon.getLsbD 6 = false ∧
      t.intcon.getLsbD 5 = false ∧ t.intcon.getLsbD 4 = false ∧ t.intcon.getLsbD 3 = false ∧ t.option = 0xFF#8 ∧
      flagTO t = true ∧ flagPD t = true ∧ (∀ j, 5 ≤ j → t.status.getLsbD j = false) ∧ (∀ n, t.ram.load n = none) ∧
      t.wdt = 0 ∧ t.wdtPrescaler = 0 ∧ t.asleep = false ∧ t.prog = s.prog ∧ t.params = s.params ∧ t.inputs = rest) ∧
    (x.event = some .externalReset → s.params.wf = true → ∃ t, step s = .next t ∧
      t = { u with pc := s.params.resetVector, stack := [], pclath := 0#5, option := 0xFF#8, wdt := 0, wdtPrescaler := 0,
                   intcon := u.intcon &&& 0x01#8 &&& ~~~(1#8 <<< s.params.intconGIE.val), asleep := false,
                   status := t.status, draws := s.draws + 1 } ∧
      (∀ j, 5 ≤ j → t.status.getLsbD j = false) ∧ flagC t = flagC s ∧ flagDC t = flagDC s ∧ flagZ t = flagZ s)

/-! ### Longer runs -/

/-- R124, R125: nine rotations through C with destination F restore the register and C, and leave the whole state. -/
def Obligations.NineRotationsRestore : Prop :=
  ∀ (f : FileAddr) (n : Nat) (v : Byte) (s : State), effCell f s = .gpr n → s.ram.wf s.params.fileMap.ramCells = true → s.ram.load n = some v →
    execTimes 9 (.rlf f .f) s = .next s ∧ execTimes 9 (.rrf f .f) s = .next s

/-- R127: two exchanges of the nibbles with destination F restore the register, and leave the whole state. -/
def Obligations.TwoSwapsRestore : Prop :=
  ∀ (f : FileAddr) (n : Nat) (v : Byte) (s : State), effCell f s = .gpr n → s.ram.wf s.params.fileMap.ramCells = true → s.ram.load n = some v →
    execTimes 2 (.swapf f .f) s = .next s

/-- A return that finds the stack as its CALL left it resumes at the instruction after the CALL, whatever PCLATH holds
then, and leaves the stack as before the CALL (R170, R163, R157). -/
def Obligations.CallReturnRoundTrip : Prop :=
  ∀ (k : Addr11) (c : Byte) (s : State), s.stack.length < s.params.stackDepth →
    ∃ t, exec (.call k) s = .next t ∧ t.pc.toNat % 2048 = k.toNat ∧ t.pc.toNat / 2048 = s.pclath.toNat / 8 ∧
      ∀ u : State, u.stack = t.stack →
        exec .ret u = .next { u with pc := s.pc, stack := s.stack } ∧
        exec (.retlw c) u = .next { u with w := c, pc := s.pc, stack := s.stack }

/-- R217: at an ended run, with no platform input, every further step leaves the state as it is. -/
def Obligations.EndedRunStays : Prop :=
  ∀ (k : Nat) (s : State), runEnded s = true → s.inputs = [] → Host.Core.run core k s = .next s

/-- R215: the cycle counts, as data. The calls, jumps and returns take 2; a skip instruction takes 2 where the skip is
taken (from a state whose operand it can read) and 1 otherwise; a write to PCL takes 2. That a write to PCL
through INDF does too (log entry 25), and so DECFSZ and INCFSZ where they name PCL, a form that R117 and R119 refuse (log
entry 11), is the model's choice. -/
def Obligations.CycleCounts : Prop :=
  (∀ (k : Byte) (a : Addr11) (s t : State),
    cycles (.call a) s t = 2 ∧ cycles (.goto a) s t = 2 ∧ cycles .retfie s t = 2 ∧ cycles (.retlw k) s t = 2 ∧
    cycles .ret s t = 2) ∧
  (∀ (f : FileAddr) (b : BitPos) (v : Byte) (s s1 t : State), fileRead f s = .ok (v, s1) →
    (exec (.btfsc f b) s = .next t → cycles (.btfsc f b) s t = if v.getLsbD b.toNat then 1 else 2) ∧
    (exec (.btfss f b) s = .next t → cycles (.btfss f b) s t = if v.getLsbD b.toNat then 2 else 1) ∧
    ∀ d : Dest, ¬(d = .f ∧ effCell f s = .pcl) →
      (exec (.decfsz f d) s = .next t → cycles (.decfsz f d) s t = if v.toNat = 1 then 2 else 1) ∧
      (exec (.incfsz f d) s = .next t → cycles (.incfsz f d) s t = if v.toNat = 255 then 2 else 1)) ∧
  ∀ (f : FileAddr) (s t : State), effCell f s = .pcl →
    cycles (.addwf f .f) s t = 2 ∧ cycles (.movwf f) s t = 2 ∧ cycles (.clrf f) s t = 2 ∧
    cycles (.decfsz f .f) s t = 2 ∧ cycles (.incfsz f .f) s t = 2
end

