-- ==== Sys2Proof/Laws/Encoding.lean ====
section
/-! SUPPORT. The decoding procedure of spec/30_encoding.md R87 on words. -/

namespace Sys2Proof

/-- A word is a row's exactly when its masked bits are the row's pattern. -/
theorem rowMatches_iff (w : Word14) (r : OpcodeRow) : rowMatches w r = true ↔ w &&& r.mask = r.pattern := by
  unfold rowMatches
  rw [Nat.beq_eq, ← BitVec.toNat_inj, BitVec.toNat_and]
  rfl

/-- A word decodes to `i` exactly when the first row it matches builds `i`. -/
theorem decode_eq_some {w : Word14} {i : Instr} :
    decode w = some i ↔ ∃ r, opcodeMap.find? (rowMatches w) = some r ∧ r.build w = i := by
  unfold decode
  cases opcodeMap.find? (rowMatches w) <;> simp

/-- A word is unassigned exactly when no row is its row. -/
theorem decode_eq_none {w : Word14} : decode w = none ↔ ∀ r ∈ opcodeMap, rowMatches w r = false := by
  simp [decode, List.find?_eq_none]

end Sys2Proof
end

