-- ==== Sys2Proof/Laws/State.lean ====
section
/-! SUPPORT. Each field after each named update of State: true by rfl, for simp, so that no proof unfolds an update. -/

namespace Sys2Proof.Machine

/-! ### `applyFlags` -/

@[simp] theorem applyFlags_w (fl : FlagWrites) (s : State) : (applyFlags fl s).w = s.w := rfl
@[simp] theorem applyFlags_pc (fl : FlagWrites) (s : State) : (applyFlags fl s).pc = s.pc := rfl
@[simp] theorem applyFlags_pclath (fl : FlagWrites) (s : State) : (applyFlags fl s).pclath = s.pclath := rfl
@[simp] theorem applyFlags_stack (fl : FlagWrites) (s : State) : (applyFlags fl s).stack = s.stack := rfl
@[simp] theorem applyFlags_status (fl : FlagWrites) (s : State) : (applyFlags fl s).status = putFlag s.params.statusZ fl.z (putFlag s.params.statusDC fl.dc (putFlag s.params.statusC fl.c s.status)) := rfl
@[simp] theorem applyFlags_intcon (fl : FlagWrites) (s : State) : (applyFlags fl s).intcon = s.intcon := rfl
@[simp] theorem applyFlags_option (fl : FlagWrites) (s : State) : (applyFlags fl s).option = s.option := rfl
@[simp] theorem applyFlags_fsr (fl : FlagWrites) (s : State) : (applyFlags fl s).fsr = s.fsr := rfl
@[simp] theorem applyFlags_ram (fl : FlagWrites) (s : State) : (applyFlags fl s).ram = s.ram := rfl
@[simp] theorem applyFlags_prog (fl : FlagWrites) (s : State) : (applyFlags fl s).prog = s.prog := rfl
@[simp] theorem applyFlags_wdt (fl : FlagWrites) (s : State) : (applyFlags fl s).wdt = s.wdt := rfl
@[simp] theorem applyFlags_wdtPrescaler (fl : FlagWrites) (s : State) : (applyFlags fl s).wdtPrescaler = s.wdtPrescaler := rfl
@[simp] theorem applyFlags_asleep (fl : FlagWrites) (s : State) : (applyFlags fl s).asleep = s.asleep := rfl
@[simp] theorem applyFlags_eeif (fl : FlagWrites) (s : State) : (applyFlags fl s).eeif = s.eeif := rfl
@[simp] theorem applyFlags_irqLine (fl : FlagWrites) (s : State) : (applyFlags fl s).irqLine = s.irqLine := rfl
@[simp] theorem applyFlags_ioLevels (fl : FlagWrites) (s : State) : (applyFlags fl s).ioLevels = s.ioLevels := rfl
@[simp] theorem applyFlags_ioLog (fl : FlagWrites) (s : State) : (applyFlags fl s).ioLog = s.ioLog := rfl
@[simp] theorem applyFlags_draws (fl : FlagWrites) (s : State) : (applyFlags fl s).draws = s.draws := rfl
@[simp] theorem applyFlags_inputs (fl : FlagWrites) (s : State) : (applyFlags fl s).inputs = s.inputs := rfl
@[simp] theorem applyFlags_params (fl : FlagWrites) (s : State) : (applyFlags fl s).params = s.params := rfl

/-! ### `setToPd` -/

@[simp] theorem setToPd_w (a b : Bool) (s : State) : (setToPd a b s).w = s.w := rfl
@[simp] theorem setToPd_pc (a b : Bool) (s : State) : (setToPd a b s).pc = s.pc := rfl
@[simp] theorem setToPd_pclath (a b : Bool) (s : State) : (setToPd a b s).pclath = s.pclath := rfl
@[simp] theorem setToPd_stack (a b : Bool) (s : State) : (setToPd a b s).stack = s.stack := rfl
@[simp] theorem setToPd_status (a b : Bool) (s : State) : (setToPd a b s).status = setBit (setBit s.status s.params.statusTO a) s.params.statusPD b := rfl
@[simp] theorem setToPd_intcon (a b : Bool) (s : State) : (setToPd a b s).intcon = s.intcon := rfl
@[simp] theorem setToPd_option (a b : Bool) (s : State) : (setToPd a b s).option = s.option := rfl
@[simp] theorem setToPd_fsr (a b : Bool) (s : State) : (setToPd a b s).fsr = s.fsr := rfl
@[simp] theorem setToPd_ram (a b : Bool) (s : State) : (setToPd a b s).ram = s.ram := rfl
@[simp] theorem setToPd_prog (a b : Bool) (s : State) : (setToPd a b s).prog = s.prog := rfl
@[simp] theorem setToPd_wdt (a b : Bool) (s : State) : (setToPd a b s).wdt = s.wdt := rfl
@[simp] theorem setToPd_wdtPrescaler (a b : Bool) (s : State) : (setToPd a b s).wdtPrescaler = s.wdtPrescaler := rfl
@[simp] theorem setToPd_asleep (a b : Bool) (s : State) : (setToPd a b s).asleep = s.asleep := rfl
@[simp] theorem setToPd_eeif (a b : Bool) (s : State) : (setToPd a b s).eeif = s.eeif := rfl
@[simp] theorem setToPd_irqLine (a b : Bool) (s : State) : (setToPd a b s).irqLine = s.irqLine := rfl
@[simp] theorem setToPd_ioLevels (a b : Bool) (s : State) : (setToPd a b s).ioLevels = s.ioLevels := rfl
@[simp] theorem setToPd_ioLog (a b : Bool) (s : State) : (setToPd a b s).ioLog = s.ioLog := rfl
@[simp] theorem setToPd_draws (a b : Bool) (s : State) : (setToPd a b s).draws = s.draws := rfl
@[simp] theorem setToPd_inputs (a b : Bool) (s : State) : (setToPd a b s).inputs = s.inputs := rfl
@[simp] theorem setToPd_params (a b : Bool) (s : State) : (setToPd a b s).params = s.params := rfl

/-! ### `setGie` -/

@[simp] theorem setGie_w (b : Bool) (s : State) : (setGie b s).w = s.w := rfl
@[simp] theorem setGie_pc (b : Bool) (s : State) : (setGie b s).pc = s.pc := rfl
@[simp] theorem setGie_pclath (b : Bool) (s : State) : (setGie b s).pclath = s.pclath := rfl
@[simp] theorem setGie_stack (b : Bool) (s : State) : (setGie b s).stack = s.stack := rfl
@[simp] theorem setGie_status (b : Bool) (s : State) : (setGie b s).status = s.status := rfl
@[simp] theorem setGie_intcon (b : Bool) (s : State) : (setGie b s).intcon = setBit s.intcon s.params.intconGIE b := rfl
@[simp] theorem setGie_option (b : Bool) (s : State) : (setGie b s).option = s.option := rfl
@[simp] theorem setGie_fsr (b : Bool) (s : State) : (setGie b s).fsr = s.fsr := rfl
@[simp] theorem setGie_ram (b : Bool) (s : State) : (setGie b s).ram = s.ram := rfl
@[simp] theorem setGie_prog (b : Bool) (s : State) : (setGie b s).prog = s.prog := rfl
@[simp] theorem setGie_wdt (b : Bool) (s : State) : (setGie b s).wdt = s.wdt := rfl
@[simp] theorem setGie_wdtPrescaler (b : Bool) (s : State) : (setGie b s).wdtPrescaler = s.wdtPrescaler := rfl
@[simp] theorem setGie_asleep (b : Bool) (s : State) : (setGie b s).asleep = s.asleep := rfl
@[simp] theorem setGie_eeif (b : Bool) (s : State) : (setGie b s).eeif = s.eeif := rfl
@[simp] theorem setGie_irqLine (b : Bool) (s : State) : (setGie b s).irqLine = s.irqLine := rfl
@[simp] theorem setGie_ioLevels (b : Bool) (s : State) : (setGie b s).ioLevels = s.ioLevels := rfl
@[simp] theorem setGie_ioLog (b : Bool) (s : State) : (setGie b s).ioLog = s.ioLog := rfl
@[simp] theorem setGie_draws (b : Bool) (s : State) : (setGie b s).draws = s.draws := rfl
@[simp] theorem setGie_inputs (b : Bool) (s : State) : (setGie b s).inputs = s.inputs := rfl
@[simp] theorem setGie_params (b : Bool) (s : State) : (setGie b s).params = s.params := rfl

/-! ### `statusWrite` -/

@[simp] theorem statusWrite_w (fl : FlagWrites) (v : Byte) (s : State) : (statusWrite fl v s).w = s.w := rfl
@[simp] theorem statusWrite_pc (fl : FlagWrites) (v : Byte) (s : State) : (statusWrite fl v s).pc = s.pc := rfl
@[simp] theorem statusWrite_pclath (fl : FlagWrites) (v : Byte) (s : State) : (statusWrite fl v s).pclath = s.pclath := rfl
@[simp] theorem statusWrite_stack (fl : FlagWrites) (v : Byte) (s : State) : (statusWrite fl v s).stack = s.stack := rfl
@[simp] theorem statusWrite_status (fl : FlagWrites) (v : Byte) (s : State) : (statusWrite fl v s).status = (s.status &&& protectedBits s.params fl) ||| (v &&& ~~~protectedBits s.params fl) := rfl
@[simp] theorem statusWrite_intcon (fl : FlagWrites) (v : Byte) (s : State) : (statusWrite fl v s).intcon = s.intcon := rfl
@[simp] theorem statusWrite_option (fl : FlagWrites) (v : Byte) (s : State) : (statusWrite fl v s).option = s.option := rfl
@[simp] theorem statusWrite_fsr (fl : FlagWrites) (v : Byte) (s : State) : (statusWrite fl v s).fsr = s.fsr := rfl
@[simp] theorem statusWrite_ram (fl : FlagWrites) (v : Byte) (s : State) : (statusWrite fl v s).ram = s.ram := rfl
@[simp] theorem statusWrite_prog (fl : FlagWrites) (v : Byte) (s : State) : (statusWrite fl v s).prog = s.prog := rfl
@[simp] theorem statusWrite_wdt (fl : FlagWrites) (v : Byte) (s : State) : (statusWrite fl v s).wdt = s.wdt := rfl
@[simp] theorem statusWrite_wdtPrescaler (fl : FlagWrites) (v : Byte) (s : State) : (statusWrite fl v s).wdtPrescaler = s.wdtPrescaler := rfl
@[simp] theorem statusWrite_asleep (fl : FlagWrites) (v : Byte) (s : State) : (statusWrite fl v s).asleep = s.asleep := rfl
@[simp] theorem statusWrite_eeif (fl : FlagWrites) (v : Byte) (s : State) : (statusWrite fl v s).eeif = s.eeif := rfl
@[simp] theorem statusWrite_irqLine (fl : FlagWrites) (v : Byte) (s : State) : (statusWrite fl v s).irqLine = s.irqLine := rfl
@[simp] theorem statusWrite_ioLevels (fl : FlagWrites) (v : Byte) (s : State) : (statusWrite fl v s).ioLevels = s.ioLevels := rfl
@[simp] theorem statusWrite_ioLog (fl : FlagWrites) (v : Byte) (s : State) : (statusWrite fl v s).ioLog = s.ioLog := rfl
@[simp] theorem statusWrite_draws (fl : FlagWrites) (v : Byte) (s : State) : (statusWrite fl v s).draws = s.draws := rfl
@[simp] theorem statusWrite_inputs (fl : FlagWrites) (v : Byte) (s : State) : (statusWrite fl v s).inputs = s.inputs := rfl
@[simp] theorem statusWrite_params (fl : FlagWrites) (v : Byte) (s : State) : (statusWrite fl v s).params = s.params := rfl

/-! ### `writeGpr` -/

@[simp] theorem writeGpr_w (n : Nat) (v : Byte) (s : State) : (writeGpr n v s).w = s.w := rfl
@[simp] theorem writeGpr_pc (n : Nat) (v : Byte) (s : State) : (writeGpr n v s).pc = s.pc := rfl
@[simp] theorem writeGpr_pclath (n : Nat) (v : Byte) (s : State) : (writeGpr n v s).pclath = s.pclath := rfl
@[simp] theorem writeGpr_stack (n : Nat) (v : Byte) (s : State) : (writeGpr n v s).stack = s.stack := rfl
@[simp] theorem writeGpr_status (n : Nat) (v : Byte) (s : State) : (writeGpr n v s).status = s.status := rfl
@[simp] theorem writeGpr_intcon (n : Nat) (v : Byte) (s : State) : (writeGpr n v s).intcon = s.intcon := rfl
@[simp] theorem writeGpr_option (n : Nat) (v : Byte) (s : State) : (writeGpr n v s).option = s.option := rfl
@[simp] theorem writeGpr_fsr (n : Nat) (v : Byte) (s : State) : (writeGpr n v s).fsr = s.fsr := rfl
@[simp] theorem writeGpr_ram (n : Nat) (v : Byte) (s : State) : (writeGpr n v s).ram = s.ram.store n v := rfl
@[simp] theorem writeGpr_prog (n : Nat) (v : Byte) (s : State) : (writeGpr n v s).prog = s.prog := rfl
@[simp] theorem writeGpr_wdt (n : Nat) (v : Byte) (s : State) : (writeGpr n v s).wdt = s.wdt := rfl
@[simp] theorem writeGpr_wdtPrescaler (n : Nat) (v : Byte) (s : State) : (writeGpr n v s).wdtPrescaler = s.wdtPrescaler := rfl
@[simp] theorem writeGpr_asleep (n : Nat) (v : Byte) (s : State) : (writeGpr n v s).asleep = s.asleep := rfl
@[simp] theorem writeGpr_eeif (n : Nat) (v : Byte) (s : State) : (writeGpr n v s).eeif = s.eeif := rfl
@[simp] theorem writeGpr_irqLine (n : Nat) (v : Byte) (s : State) : (writeGpr n v s).irqLine = s.irqLine := rfl
@[simp] theorem writeGpr_ioLevels (n : Nat) (v : Byte) (s : State) : (writeGpr n v s).ioLevels = s.ioLevels := rfl
@[simp] theorem writeGpr_ioLog (n : Nat) (v : Byte) (s : State) : (writeGpr n v s).ioLog = s.ioLog := rfl
@[simp] theorem writeGpr_draws (n : Nat) (v : Byte) (s : State) : (writeGpr n v s).draws = s.draws := rfl
@[simp] theorem writeGpr_inputs (n : Nat) (v : Byte) (s : State) : (writeGpr n v s).inputs = s.inputs := rfl
@[simp] theorem writeGpr_params (n : Nat) (v : Byte) (s : State) : (writeGpr n v s).params = s.params := rfl

/-! ### `ioWrite` -/

@[simp] theorem ioWrite_w (name : IoName) (v : Byte) (s : State) : (ioWrite name v s).w = s.w := rfl
@[simp] theorem ioWrite_pc (name : IoName) (v : Byte) (s : State) : (ioWrite name v s).pc = s.pc := rfl
@[simp] theorem ioWrite_pclath (name : IoName) (v : Byte) (s : State) : (ioWrite name v s).pclath = s.pclath := rfl
@[simp] theorem ioWrite_stack (name : IoName) (v : Byte) (s : State) : (ioWrite name v s).stack = s.stack := rfl
@[simp] theorem ioWrite_status (name : IoName) (v : Byte) (s : State) : (ioWrite name v s).status = s.status := rfl
@[simp] theorem ioWrite_intcon (name : IoName) (v : Byte) (s : State) : (ioWrite name v s).intcon = s.intcon := rfl
@[simp] theorem ioWrite_option (name : IoName) (v : Byte) (s : State) : (ioWrite name v s).option = s.option := rfl
@[simp] theorem ioWrite_fsr (name : IoName) (v : Byte) (s : State) : (ioWrite name v s).fsr = s.fsr := rfl
@[simp] theorem ioWrite_ram (name : IoName) (v : Byte) (s : State) : (ioWrite name v s).ram = s.ram := rfl
@[simp] theorem ioWrite_prog (name : IoName) (v : Byte) (s : State) : (ioWrite name v s).prog = s.prog := rfl
@[simp] theorem ioWrite_wdt (name : IoName) (v : Byte) (s : State) : (ioWrite name v s).wdt = s.wdt := rfl
@[simp] theorem ioWrite_wdtPrescaler (name : IoName) (v : Byte) (s : State) : (ioWrite name v s).wdtPrescaler = s.wdtPrescaler := rfl
@[simp] theorem ioWrite_asleep (name : IoName) (v : Byte) (s : State) : (ioWrite name v s).asleep = s.asleep := rfl
@[simp] theorem ioWrite_eeif (name : IoName) (v : Byte) (s : State) : (ioWrite name v s).eeif = s.eeif := rfl
@[simp] theorem ioWrite_irqLine (name : IoName) (v : Byte) (s : State) : (ioWrite name v s).irqLine = s.irqLine := rfl
@[simp] theorem ioWrite_ioLevels (name : IoName) (v : Byte) (s : State) : (ioWrite name v s).ioLevels = ioLevelsAfter name v s := rfl
@[simp] theorem ioWrite_ioLog (name : IoName) (v : Byte) (s : State) : (ioWrite name v s).ioLog = .write name v :: s.ioLog := rfl
@[simp] theorem ioWrite_draws (name : IoName) (v : Byte) (s : State) : (ioWrite name v s).draws = s.draws := rfl
@[simp] theorem ioWrite_inputs (name : IoName) (v : Byte) (s : State) : (ioWrite name v s).inputs = s.inputs := rfl
@[simp] theorem ioWrite_params (name : IoName) (v : Byte) (s : State) : (ioWrite name v s).params = s.params := rfl

/-! ### `skip` -/

@[simp] theorem skip_w (s : State) : (skip s).w = s.w := rfl
@[simp] theorem skip_pc (s : State) : (skip s).pc = s.pc + 1#13 := rfl
@[simp] theorem skip_pclath (s : State) : (skip s).pclath = s.pclath := rfl
@[simp] theorem skip_stack (s : State) : (skip s).stack = s.stack := rfl
@[simp] theorem skip_status (s : State) : (skip s).status = s.status := rfl
@[simp] theorem skip_intcon (s : State) : (skip s).intcon = s.intcon := rfl
@[simp] theorem skip_option (s : State) : (skip s).option = s.option := rfl
@[simp] theorem skip_fsr (s : State) : (skip s).fsr = s.fsr := rfl
@[simp] theorem skip_ram (s : State) : (skip s).ram = s.ram := rfl
@[simp] theorem skip_prog (s : State) : (skip s).prog = s.prog := rfl
@[simp] theorem skip_wdt (s : State) : (skip s).wdt = s.wdt := rfl
@[simp] theorem skip_wdtPrescaler (s : State) : (skip s).wdtPrescaler = s.wdtPrescaler := rfl
@[simp] theorem skip_asleep (s : State) : (skip s).asleep = s.asleep := rfl
@[simp] theorem skip_eeif (s : State) : (skip s).eeif = s.eeif := rfl
@[simp] theorem skip_irqLine (s : State) : (skip s).irqLine = s.irqLine := rfl
@[simp] theorem skip_ioLevels (s : State) : (skip s).ioLevels = s.ioLevels := rfl
@[simp] theorem skip_ioLog (s : State) : (skip s).ioLog = s.ioLog := rfl
@[simp] theorem skip_draws (s : State) : (skip s).draws = s.draws := rfl
@[simp] theorem skip_inputs (s : State) : (skip s).inputs = s.inputs := rfl
@[simp] theorem skip_params (s : State) : (skip s).params = s.params := rfl

/-! ### `writePcl` -/

@[simp] theorem writePcl_w (v : Byte) (s : State) : (writePcl v s).w = s.w := rfl
@[simp] theorem writePcl_pc (v : Byte) (s : State) : (writePcl v s).pc = s.pclath ++ v := rfl
@[simp] theorem writePcl_pclath (v : Byte) (s : State) : (writePcl v s).pclath = s.pclath := rfl
@[simp] theorem writePcl_stack (v : Byte) (s : State) : (writePcl v s).stack = s.stack := rfl
@[simp] theorem writePcl_status (v : Byte) (s : State) : (writePcl v s).status = s.status := rfl
@[simp] theorem writePcl_intcon (v : Byte) (s : State) : (writePcl v s).intcon = s.intcon := rfl
@[simp] theorem writePcl_option (v : Byte) (s : State) : (writePcl v s).option = s.option := rfl
@[simp] theorem writePcl_fsr (v : Byte) (s : State) : (writePcl v s).fsr = s.fsr := rfl
@[simp] theorem writePcl_ram (v : Byte) (s : State) : (writePcl v s).ram = s.ram := rfl
@[simp] theorem writePcl_prog (v : Byte) (s : State) : (writePcl v s).prog = s.prog := rfl
@[simp] theorem writePcl_wdt (v : Byte) (s : State) : (writePcl v s).wdt = s.wdt := rfl
@[simp] theorem writePcl_wdtPrescaler (v : Byte) (s : State) : (writePcl v s).wdtPrescaler = s.wdtPrescaler := rfl
@[simp] theorem writePcl_asleep (v : Byte) (s : State) : (writePcl v s).asleep = s.asleep := rfl
@[simp] theorem writePcl_eeif (v : Byte) (s : State) : (writePcl v s).eeif = s.eeif := rfl
@[simp] theorem writePcl_irqLine (v : Byte) (s : State) : (writePcl v s).irqLine = s.irqLine := rfl
@[simp] theorem writePcl_ioLevels (v : Byte) (s : State) : (writePcl v s).ioLevels = s.ioLevels := rfl
@[simp] theorem writePcl_ioLog (v : Byte) (s : State) : (writePcl v s).ioLog = s.ioLog := rfl
@[simp] theorem writePcl_draws (v : Byte) (s : State) : (writePcl v s).draws = s.draws := rfl
@[simp] theorem writePcl_inputs (v : Byte) (s : State) : (writePcl v s).inputs = s.inputs := rfl
@[simp] theorem writePcl_params (v : Byte) (s : State) : (writePcl v s).params = s.params := rfl

/-! ### `writeW` -/

@[simp] theorem writeW_w (r : Byte) (fl : FlagWrites) (s : State) : (writeW r fl s).w = r := rfl
@[simp] theorem writeW_pc (r : Byte) (fl : FlagWrites) (s : State) : (writeW r fl s).pc = s.pc := rfl
@[simp] theorem writeW_pclath (r : Byte) (fl : FlagWrites) (s : State) : (writeW r fl s).pclath = s.pclath := rfl
@[simp] theorem writeW_stack (r : Byte) (fl : FlagWrites) (s : State) : (writeW r fl s).stack = s.stack := rfl
@[simp] theorem writeW_status (r : Byte) (fl : FlagWrites) (s : State) : (writeW r fl s).status = putFlag s.params.statusZ fl.z (putFlag s.params.statusDC fl.dc (putFlag s.params.statusC fl.c s.status)) := rfl
@[simp] theorem writeW_intcon (r : Byte) (fl : FlagWrites) (s : State) : (writeW r fl s).intcon = s.intcon := rfl
@[simp] theorem writeW_option (r : Byte) (fl : FlagWrites) (s : State) : (writeW r fl s).option = s.option := rfl
@[simp] theorem writeW_fsr (r : Byte) (fl : FlagWrites) (s : State) : (writeW r fl s).fsr = s.fsr := rfl
@[simp] theorem writeW_ram (r : Byte) (fl : FlagWrites) (s : State) : (writeW r fl s).ram = s.ram := rfl
@[simp] theorem writeW_prog (r : Byte) (fl : FlagWrites) (s : State) : (writeW r fl s).prog = s.prog := rfl
@[simp] theorem writeW_wdt (r : Byte) (fl : FlagWrites) (s : State) : (writeW r fl s).wdt = s.wdt := rfl
@[simp] theorem writeW_wdtPrescaler (r : Byte) (fl : FlagWrites) (s : State) : (writeW r fl s).wdtPrescaler = s.wdtPrescaler := rfl
@[simp] theorem writeW_asleep (r : Byte) (fl : FlagWrites) (s : State) : (writeW r fl s).asleep = s.asleep := rfl
@[simp] theorem writeW_eeif (r : Byte) (fl : FlagWrites) (s : State) : (writeW r fl s).eeif = s.eeif := rfl
@[simp] theorem writeW_irqLine (r : Byte) (fl : FlagWrites) (s : State) : (writeW r fl s).irqLine = s.irqLine := rfl
@[simp] theorem writeW_ioLevels (r : Byte) (fl : FlagWrites) (s : State) : (writeW r fl s).ioLevels = s.ioLevels := rfl
@[simp] theorem writeW_ioLog (r : Byte) (fl : FlagWrites) (s : State) : (writeW r fl s).ioLog = s.ioLog := rfl
@[simp] theorem writeW_draws (r : Byte) (fl : FlagWrites) (s : State) : (writeW r fl s).draws = s.draws := rfl
@[simp] theorem writeW_inputs (r : Byte) (fl : FlagWrites) (s : State) : (writeW r fl s).inputs = s.inputs := rfl
@[simp] theorem writeW_params (r : Byte) (fl : FlagWrites) (s : State) : (writeW r fl s).params = s.params := rfl

/-! ### `resetCore` -/

@[simp] theorem resetCore_w (s : State) : (resetCore s).w = s.w := rfl
@[simp] theorem resetCore_pc (s : State) : (resetCore s).pc = s.params.resetVector := rfl
@[simp] theorem resetCore_pclath (s : State) : (resetCore s).pclath = 0#5 := rfl
@[simp] theorem resetCore_stack (s : State) : (resetCore s).stack = [] := rfl
@[simp] theorem resetCore_status (s : State) : (resetCore s).status = s.status &&& 0x1F#8 := rfl
@[simp] theorem resetCore_intcon (s : State) : (resetCore s).intcon = setBit (s.intcon &&& 0x01#8) s.params.intconGIE false := rfl
@[simp] theorem resetCore_option (s : State) : (resetCore s).option = 0xFF#8 := rfl
@[simp] theorem resetCore_fsr (s : State) : (resetCore s).fsr = s.fsr := rfl
@[simp] theorem resetCore_ram (s : State) : (resetCore s).ram = s.ram := rfl
@[simp] theorem resetCore_prog (s : State) : (resetCore s).prog = s.prog := rfl
@[simp] theorem resetCore_wdt (s : State) : (resetCore s).wdt = 0 := rfl
@[simp] theorem resetCore_wdtPrescaler (s : State) : (resetCore s).wdtPrescaler = 0 := rfl
@[simp] theorem resetCore_asleep (s : State) : (resetCore s).asleep = false := rfl
@[simp] theorem resetCore_eeif (s : State) : (resetCore s).eeif = s.eeif := rfl
@[simp] theorem resetCore_irqLine (s : State) : (resetCore s).irqLine = s.irqLine := rfl
@[simp] theorem resetCore_ioLevels (s : State) : (resetCore s).ioLevels = s.ioLevels := rfl
@[simp] theorem resetCore_ioLog (s : State) : (resetCore s).ioLog = s.ioLog := rfl
@[simp] theorem resetCore_draws (s : State) : (resetCore s).draws = s.draws := rfl
@[simp] theorem resetCore_inputs (s : State) : (resetCore s).inputs = s.inputs := rfl
@[simp] theorem resetCore_params (s : State) : (resetCore s).params = s.params := rfl

/-! ### `raiseFlags` -/

@[simp] theorem raiseFlags_w (x : PlatformInput) (s : State) : (raiseFlags x s).w = s.w := rfl
@[simp] theorem raiseFlags_pc (x : PlatformInput) (s : State) : (raiseFlags x s).pc = s.pc := rfl
@[simp] theorem raiseFlags_pclath (x : PlatformInput) (s : State) : (raiseFlags x s).pclath = s.pclath := rfl
@[simp] theorem raiseFlags_stack (x : PlatformInput) (s : State) : (raiseFlags x s).stack = s.stack := rfl
@[simp] theorem raiseFlags_status (x : PlatformInput) (s : State) : (raiseFlags x s).status = s.status := rfl
@[simp] theorem raiseFlags_intcon (x : PlatformInput) (s : State) : (raiseFlags x s).intcon = s.intcon ||| (x.flags &&& ~~~(1#8 <<< s.params.intconGIE.val)) := rfl
@[simp] theorem raiseFlags_option (x : PlatformInput) (s : State) : (raiseFlags x s).option = s.option := rfl
@[simp] theorem raiseFlags_fsr (x : PlatformInput) (s : State) : (raiseFlags x s).fsr = s.fsr := rfl
@[simp] theorem raiseFlags_ram (x : PlatformInput) (s : State) : (raiseFlags x s).ram = s.ram := rfl
@[simp] theorem raiseFlags_prog (x : PlatformInput) (s : State) : (raiseFlags x s).prog = s.prog := rfl
@[simp] theorem raiseFlags_wdt (x : PlatformInput) (s : State) : (raiseFlags x s).wdt = s.wdt := rfl
@[simp] theorem raiseFlags_wdtPrescaler (x : PlatformInput) (s : State) : (raiseFlags x s).wdtPrescaler = s.wdtPrescaler := rfl
@[simp] theorem raiseFlags_asleep (x : PlatformInput) (s : State) : (raiseFlags x s).asleep = s.asleep := rfl
@[simp] theorem raiseFlags_eeif (x : PlatformInput) (s : State) : (raiseFlags x s).eeif = x.eeif.getD s.eeif := rfl
@[simp] theorem raiseFlags_irqLine (x : PlatformInput) (s : State) : (raiseFlags x s).irqLine = x.irqLine.getD s.irqLine := rfl
@[simp] theorem raiseFlags_ioLevels (x : PlatformInput) (s : State) : (raiseFlags x s).ioLevels = x.ioLevels.foldl (fun m e => m.store (ioNumber e.1) e.2) s.ioLevels := rfl
@[simp] theorem raiseFlags_ioLog (x : PlatformInput) (s : State) : (raiseFlags x s).ioLog = s.ioLog := rfl
@[simp] theorem raiseFlags_draws (x : PlatformInput) (s : State) : (raiseFlags x s).draws = s.draws := rfl
@[simp] theorem raiseFlags_inputs (x : PlatformInput) (s : State) : (raiseFlags x s).inputs = s.inputs := rfl
@[simp] theorem raiseFlags_params (x : PlatformInput) (s : State) : (raiseFlags x s).params = s.params := rfl

end Sys2Proof.Machine
end

