-- ==== Sys2Proof/Laws/Flags.lean ====
section
/-! SUPPORT. What the flag operations do, bit by bit, and what the arithmetic helpers compute. -/

namespace Sys2Proof.Machine

/-- A bit of `setBit`: the bit set, or the old bit. -/
theorem setBit_getLsbD (v : Byte) (i j : Nat) (b : Bool) :
    (setBit v i b).getLsbD j = if i = j ∧ j < 8 then b else v.getLsbD j := by
  unfold setBit
  by_cases hj : j < 8
  · by_cases hij : i = j
    · subst hij; cases b <;> simp [hj]
    · cases b <;> by_cases hlt : j < i <;> simp [hj, hij, hlt] <;> omega
  · have h8 : 8 ≤ j := by omega
    simp [hj, h8]

/-- The same in the form to which simp brings a bit of a word. -/
@[simp] theorem setBit_getElem (v : Byte) (i j : Nat) (b : Bool) (h : j < 8) :
    (setBit v i b)[j] = if i = j then b else v[j] := by
  rw [← BitVec.getLsbD_eq_getElem h, setBit_getLsbD, BitVec.getLsbD_eq_getElem h]
  simp [h]

/-- A bit of `putFlag`: the computed flag, or the old bit. -/
theorem putFlag_getLsbD (v : Byte) (i j : Nat) (b : Option Bool) :
    (putFlag i b v).getLsbD j = if i = j ∧ j < 8 then b.getD (v.getLsbD j) else v.getLsbD j := by
  cases b with
  | none => simp [putFlag]
  | some b => simp [putFlag, setBit_getLsbD]

/-- The same in the form to which simp brings a bit of a word. -/
@[simp] theorem putFlag_getElem (v : Byte) (i j : Nat) (b : Option Bool) (h : j < 8) :
    (putFlag i b v)[j] = if i = j then b.getD v[j] else v[j] := by
  rw [← BitVec.getLsbD_eq_getElem h, putFlag_getLsbD, BitVec.getLsbD_eq_getElem h]
  simp [h]

/-- Meaningful parameters give the five flags different bits (R28). -/
theorem paramsWf_flags {p : Params} (h : p.wf = true) :
    [p.statusC.val, p.statusDC.val, p.statusZ.val, p.statusPD.val, p.statusTO.val].Nodup := by
  simp only [Params.wf, Bool.and_eq_true, decide_eq_true_eq] at h
  simpa only [List.map] using h.1.2.map Fin.val_injective

theorem paramsWf_stackDepth {p : Params} (h : p.wf = true) : 1 ≤ p.stackDepth := by
  simp only [Params.wf, Bool.and_eq_true, decide_eq_true_eq] at h
  exact h.1.1.2

theorem paramsWf_progWords {p : Params} (h : p.wf = true) : p.progWords ≤ 2 ^ 13 := by
  simp only [Params.wf, Bool.and_eq_true, decide_eq_true_eq] at h
  exact h.1.1.1

/-- A bit of STATUS after the flags are written: the three flags the instruction computes, the rest as before. -/
theorem applyFlags_bit (fl : FlagWrites) {s : State} (h : s.params.wf = true) (j : Nat) :
    (applyFlags fl s).status.getLsbD j =
      if j = s.params.statusC.val then fl.c.getD (s.status.getLsbD j)
      else if j = s.params.statusDC.val then fl.dc.getD (s.status.getLsbD j)
      else if j = s.params.statusZ.val then fl.z.getD (s.status.getLsbD j)
      else s.status.getLsbD j := by
  have hn := paramsWf_flags h
  have h1 := s.params.statusC.isLt
  have h2 := s.params.statusDC.isLt
  have h3 := s.params.statusZ.isLt
  simp only [List.nodup_cons, List.mem_cons, not_or] at hn
  simp only [applyFlags_status, putFlag_getLsbD]
  (repeat' split) <;> first | rfl | omega

/-- The flags after `applyFlags`: each is the computed value, where one is given; TO and PD keep. -/
theorem applyFlags_flags (fl : FlagWrites) {s : State} (h : s.params.wf = true) :
    flagC (applyFlags fl s) = fl.c.getD (flagC s) ∧ flagDC (applyFlags fl s) = fl.dc.getD (flagDC s) ∧
      flagZ (applyFlags fl s) = fl.z.getD (flagZ s) ∧ flagPD (applyFlags fl s) = flagPD s ∧
      flagTO (applyFlags fl s) = flagTO s := by
  have hn := paramsWf_flags h
  simp only [List.nodup_cons, List.mem_cons, not_or] at hn
  simp only [flagC, flagDC, flagZ, flagPD, flagTO, applyFlags_params, applyFlags_bit fl h]
  refine ⟨?_, ?_, ?_, ?_, ?_⟩ <;> (repeat' split) <;> first | rfl | omega | exact absurd trivial ‹¬True›

theorem applyFlags_noFlags (s : State) : applyFlags noFlags s = s := rfl

/-- A bit of STATUS after `setToPd`. -/
theorem setToPd_bit (a b : Bool) (s : State) (j : Nat) :
    (setToPd a b s).status.getLsbD j =
      if j = s.params.statusPD.val then b else if j = s.params.statusTO.val then a else s.status.getLsbD j := by
  have h1 := s.params.statusPD.isLt
  have h2 := s.params.statusTO.isLt
  simp only [setToPd_status, setBit_getLsbD]
  (repeat' split) <;> first | rfl | omega

/-- TO, PD and the flags after `setToPd`. -/
theorem setToPd_flags (a b : Bool) {s : State} (h : s.params.wf = true) :
    flagTO (setToPd a b s) = a ∧ flagPD (setToPd a b s) = b ∧ flagC (setToPd a b s) = flagC s ∧
      flagDC (setToPd a b s) = flagDC s ∧ flagZ (setToPd a b s) = flagZ s := by
  have hn := paramsWf_flags h
  simp only [List.nodup_cons, List.mem_cons, not_or] at hn
  simp only [flagC, flagDC, flagZ, flagPD, flagTO, setToPd_params, setToPd_bit]
  refine ⟨?_, ?_, ?_, ?_, ?_⟩ <;> (repeat' split) <;> first | rfl | omega | exact absurd trivial ‹¬True›

/-- A bit of INTCON after `setGie`. -/
theorem setGie_bit (b : Bool) (s : State) (j : Nat) :
    (setGie b s).intcon.getLsbD j = if j = s.params.intconGIE.val then b else s.intcon.getLsbD j := by
  have h1 := s.params.intconGIE.isLt
  simp only [setGie_intcon, setBit_getLsbD]
  split <;> split <;> first | rfl | omega

/-- A bit of a one-bit byte. -/
theorem oneBit_getLsbD {i : Nat} (hi : i < 8) (j : Nat) : (1#8 <<< i).getLsbD j = decide (i = j) := by
  by_cases hj : j < 8
  · by_cases hij : i = j
    · subst hij; simp [hj]
    · by_cases hlt : j < i <;> (simp [hj, hij, hlt]; try omega)
  · have : i ≠ j := by omega
    rw [BitVec.getLsbD_of_ge _ _ (by omega)]; simp [this]

theorem flagBit_getLsbD {i : Nat} (hi : i < 8) (b : Option Bool) (j : Nat) :
    (flagBit i b).getLsbD j = (decide (i = j) && b.isSome) := by
  cases b with
  | none => simp [flagBit]
  | some b => simp only [flagBit, Option.isSome_some, if_true, oneBit_getLsbD hi, Bool.and_true]

/-- The protected bits are TO, PD and the flags in S. -/
theorem protectedBits_bit (p : Params) (fl : FlagWrites) (j : Nat) :
    (protectedBits p fl).getLsbD j =
      (decide (p.statusTO.val = j) || decide (p.statusPD.val = j) || (decide (p.statusC.val = j) && fl.c.isSome) ||
        (decide (p.statusDC.val = j) && fl.dc.isSome) || (decide (p.statusZ.val = j) && fl.z.isSome)) := by
  have h1 := p.statusTO.isLt
  have h2 := p.statusPD.isLt
  have h3 := p.statusC.isLt
  have h4 := p.statusDC.isLt
  have h5 := p.statusZ.isLt
  simp only [protectedBits, BitVec.getLsbD_or]
  rw [oneBit_getLsbD (by omega), oneBit_getLsbD (by omega), flagBit_getLsbD (by omega), flagBit_getLsbD (by omega),
    flagBit_getLsbD (by omega)]

/-- A bit of STATUS after a file write to it (R38): protected bits keep, the others take the written bit. -/
theorem statusWrite_bit (fl : FlagWrites) (v : Byte) (s : State) (j : Nat) :
    (statusWrite fl v s).status.getLsbD j =
      if (protectedBits s.params fl).getLsbD j then s.status.getLsbD j else v.getLsbD j := by
  simp only [statusWrite_status, BitVec.getLsbD_or, BitVec.getLsbD_and, BitVec.getLsbD_not]
  by_cases hj : j < 8
  · cases (protectedBits s.params fl).getLsbD j <;> simp [hj]
  · have h8 : 8 ≤ j := by omega
    simp [BitVec.getLsbD_of_ge, h8]

/-- A file write to STATUS never changes TO and PD (R38). -/
theorem statusWrite_toPd (fl : FlagWrites) (v : Byte) (s : State) :
    flagTO (statusWrite fl v s) = flagTO s ∧ flagPD (statusWrite fl v s) = flagPD s := by
  simp only [flagTO, flagPD, statusWrite_bit, statusWrite_params, protectedBits_bit, decide_true, Bool.or_true,
    Bool.true_or, if_true, and_self]

/-- `Add8` computes the sum, its carry out of bit 7 and its carry out of bit 3. -/
theorem add8_spec (a b : Byte) :
    add8 a b = ⟨a + b, decide (256 ≤ a.toNat + b.toNat), decide (16 ≤ a.toNat % 16 + b.toNat % 16), a + b == 0#8⟩ := by
  have ha := a.isLt
  have hb := b.isLt
  have hr : (BitVec.extractLsb' 0 8 (BitVec.setWidth 9 a + BitVec.setWidth 9 b)) = a + b := by
    apply BitVec.eq_of_toNat_eq
    simp [BitVec.extractLsb'_toNat, BitVec.toNat_add]
  have hc : (BitVec.setWidth 9 a + BitVec.setWidth 9 b).getLsbD 8 = decide (256 ≤ a.toNat + b.toNat) := by
    rw [BitVec.getLsbD, Nat.testBit_eq_decide_div_mod_eq]
    simp only [BitVec.toNat_add, BitVec.toNat_setWidth]
    congr 1
    apply propext
    omega
  have hd : (BitVec.setWidth 5 (BitVec.extractLsb' 0 4 a) + BitVec.setWidth 5 (BitVec.extractLsb' 0 4 b)).getLsbD 4 =
      decide (16 ≤ a.toNat % 16 + b.toNat % 16) := by
    rw [BitVec.getLsbD, Nat.testBit_eq_decide_div_mod_eq]
    simp only [BitVec.toNat_add, BitVec.toNat_setWidth, BitVec.extractLsb'_toNat, Nat.shiftRight_zero]
    congr 1
    apply propext
    omega
  simp only [add8, hr, hc, hd]

/-- `Sub8` computes the difference; C and DC are 1 where there is no borrow. -/
theorem sub8_spec (a b : Byte) :
    sub8 a b = ⟨a - b, decide (b.toNat ≤ a.toNat), decide (b.toNat % 16 ≤ a.toNat % 16), a - b == 0#8⟩ := by
  have ha := a.isLt
  have hb := b.isLt
  have hnot : (~~~b).toNat = 255 - b.toNat := by simp [BitVec.toNat_not]
  have hr : (BitVec.extractLsb' 0 8 (BitVec.setWidth 9 a + BitVec.setWidth 9 (~~~b) + 1#9)) = a - b := by
    apply BitVec.eq_of_toNat_eq
    simp only [BitVec.extractLsb'_toNat, BitVec.toNat_add, BitVec.toNat_setWidth, hnot, BitVec.toNat_sub,
      Nat.shiftRight_zero, BitVec.toNat_ofNat]
    omega
  have hc : (BitVec.setWidth 9 a + BitVec.setWidth 9 (~~~b) + 1#9).getLsbD 8 = decide (b.toNat ≤ a.toNat) := by
    rw [BitVec.getLsbD, Nat.testBit_eq_decide_div_mod_eq]
    simp only [BitVec.toNat_add, BitVec.toNat_setWidth, hnot, BitVec.toNat_ofNat]
    congr 1
    apply propext
    omega
  have hd : (BitVec.setWidth 5 (BitVec.extractLsb' 0 4 a) + BitVec.setWidth 5 (BitVec.extractLsb' 0 4 (~~~b)) + 1#5).getLsbD 4 =
      decide (b.toNat % 16 ≤ a.toNat % 16) := by
    rw [BitVec.getLsbD, Nat.testBit_eq_decide_div_mod_eq]
    simp only [BitVec.toNat_add, BitVec.toNat_setWidth, BitVec.extractLsb'_toNat, Nat.shiftRight_zero, hnot,
      BitVec.toNat_ofNat]
    congr 1
    apply propext
    omega
  simp only [sub8, hr, hc, hd]

end Sys2Proof.Machine
end

