-- ==== Sys2Proof/Laws/Memory.lean ====
section
/-! SUPPORT. What the memory operations do: read after write, and the canonical form kept. -/

namespace Sys2Proof.Machine

variable {α : Type}

@[simp] theorem lookupAt_nil (a : Nat) : lookupAt a ([] : List (Nat × α)) = none := rfl

theorem lookupAt_insertAt_self (a : Nat) (v : α) (l : List (Nat × α)) : lookupAt a (insertAt a v l) = some v := by
  induction l with
  | nil => simp [insertAt, lookupAt]
  | cons e rest ih =>
    obtain ⟨b, x⟩ := e
    simp only [insertAt]
    split
    · simp [lookupAt]
    · split
      · simp [lookupAt]
      · simp [lookupAt, *]

theorem lookupAt_insertAt_ne {a b : Nat} (h : b ≠ a) (v : α) (l : List (Nat × α)) :
    lookupAt b (insertAt a v l) = lookupAt b l := by
  induction l with
  | nil => simp [insertAt, lookupAt, h]
  | cons e rest ih =>
    obtain ⟨c, x⟩ := e
    simp only [insertAt]
    split
    · simp [lookupAt, h]
    · split
      · subst_vars; simp [lookupAt, h]
      · simp [lookupAt, ih]

theorem lookupAt_removeAt_ne {a b : Nat} (h : b ≠ a) (l : List (Nat × α)) :
    lookupAt b (removeAt a l) = lookupAt b l := by
  induction l with
  | nil => rfl
  | cons e rest ih =>
    obtain ⟨c, x⟩ := e
    simp only [removeAt]
    split
    · subst_vars; simp [lookupAt, h]
    · simp [lookupAt, ih]

theorem risingFrom_mono {lo hi : Nat} (h : lo ≤ hi) (l : List (Nat × α)) (hl : risingFrom hi l = true) :
    risingFrom lo l = true := by
  cases l with
  | nil => rfl
  | cons e rest =>
    simp only [risingFrom, Bool.and_eq_true, decide_eq_true_eq] at hl ⊢
    exact ⟨by omega, hl.2⟩

theorem lookupAt_below {lo a : Nat} (h : a < lo) (l : List (Nat × α)) (hl : risingFrom lo l = true) :
    lookupAt a l = none := by
  induction l generalizing lo with
  | nil => rfl
  | cons e rest ih =>
    simp only [risingFrom, Bool.and_eq_true, decide_eq_true_eq] at hl
    have hne : a ≠ e.1 := by omega
    simp only [lookupAt, hne, if_false]
    exact ih (by omega) hl.2

theorem lookupAt_removeAt_self {lo : Nat} (a : Nat) (l : List (Nat × α)) (hl : risingFrom lo l = true) :
    lookupAt a (removeAt a l) = none := by
  induction l generalizing lo with
  | nil => rfl
  | cons e rest ih =>
    obtain ⟨b, x⟩ := e
    simp only [risingFrom, Bool.and_eq_true, decide_eq_true_eq] at hl
    simp only [removeAt]
    split
    · next h => exact lookupAt_below (by omega) rest hl.2
    · next h => simp only [lookupAt, h, if_false]; exact ih hl.2

theorem risingFrom_insertAt {lo a : Nat} (h : lo ≤ a) (v : α) (l : List (Nat × α)) (hl : risingFrom lo l = true) :
    risingFrom lo (insertAt a v l) = true := by
  induction l generalizing lo with
  | nil => simp [insertAt, risingFrom, h]
  | cons e rest ih =>
    obtain ⟨b, x⟩ := e
    simp only [risingFrom, Bool.and_eq_true, decide_eq_true_eq] at hl
    simp only [insertAt]
    split
    · simp only [risingFrom, Bool.and_eq_true, decide_eq_true_eq]
      exact ⟨h, by omega, hl.2⟩
    · split
      · simp only [risingFrom, Bool.and_eq_true, decide_eq_true_eq]
        subst_vars
        exact hl
      · simp only [risingFrom, Bool.and_eq_true, decide_eq_true_eq]
        exact ⟨hl.1, ih (by omega) hl.2⟩

theorem risingFrom_removeAt {lo : Nat} (a : Nat) (l : List (Nat × α)) (hl : risingFrom lo l = true) :
    risingFrom lo (removeAt a l) = true := by
  induction l generalizing lo with
  | nil => rfl
  | cons e rest ih =>
    obtain ⟨b, x⟩ := e
    simp only [risingFrom, Bool.and_eq_true, decide_eq_true_eq] at hl
    simp only [removeAt]
    split
    · exact risingFrom_mono (by omega) rest hl.2
    · simp only [risingFrom, Bool.and_eq_true, decide_eq_true_eq]
      exact ⟨hl.1, ih hl.2⟩

theorem all_insertAt {p : Nat × α → Bool} {a : Nat} {v : α} (hp : p (a, v) = true) (l : List (Nat × α))
    (hl : l.all p = true) : (insertAt a v l).all p = true := by
  induction l with
  | nil => simp [insertAt, hp]
  | cons e rest ih =>
    obtain ⟨b, x⟩ := e
    simp only [List.all_cons, Bool.and_eq_true] at hl
    simp only [insertAt]
    split
    · simp [List.all_cons, hp, hl.1, hl.2]
    · split
      · simp [List.all_cons, hp, hl.2]
      · simp [List.all_cons, hl.1, ih hl.2]

theorem all_removeAt {p : Nat × α → Bool} (a : Nat) (l : List (Nat × α)) (hl : l.all p = true) :
    (removeAt a l).all p = true := by
  induction l with
  | nil => rfl
  | cons e rest ih =>
    obtain ⟨b, x⟩ := e
    simp only [List.all_cons, Bool.and_eq_true] at hl
    simp only [removeAt]
    split
    · exact hl.2
    · simp [List.all_cons, hl.1, ih hl.2]

/-- A read after a write to the same cell gives the value written. -/
@[simp] theorem Memory.load_store_self (m : Memory) (n : Nat) (v : Byte) : (m.store n v).load n = some v :=
  lookupAt_insertAt_self n v m

/-- A write leaves every other cell alone. -/
theorem Memory.load_store_ne {n k : Nat} (h : k ≠ n) (m : Memory) (v : Byte) : (m.store n v).load k = m.load k :=
  lookupAt_insertAt_ne h v m

/-- A write keeps the canonical form. -/
theorem Memory.wf_store {m : Memory} {cells n : Nat} (hn : n < cells) (v : Byte) (h : m.wf cells = true) :
    (m.store n v).wf cells = true := by
  simp only [Memory.wf, Bool.and_eq_true] at h ⊢
  exact ⟨risingFrom_insertAt (Nat.zero_le n) v m h.1, all_insertAt (by simpa using hn) m h.2⟩

/-- The word just placed is the word read. -/
theorem ProgramMemory.load_store_self {m : ProgramMemory} {words : Nat} (h : m.wf words = true) (a : Nat) (w : Word14) :
    (m.store a w).load a = w := by
  simp only [ProgramMemory.wf, Bool.and_eq_true] at h
  unfold ProgramMemory.load ProgramMemory.store
  split
  · next hw => rw [lookupAt_removeAt_self a m h.1, hw]; rfl
  · rw [lookupAt_insertAt_self]; rfl

/-- Placing a word leaves every other address alone. -/
theorem ProgramMemory.load_store_ne {a b : Nat} (h : b ≠ a) (m : ProgramMemory) (w : Word14) :
    (m.store a w).load b = m.load b := by
  unfold ProgramMemory.load ProgramMemory.store
  split
  · rw [lookupAt_removeAt_ne h]
  · rw [lookupAt_insertAt_ne h]

/-- Placing a word at an implemented address keeps the canonical form. -/
theorem ProgramMemory.wf_store {m : ProgramMemory} {words a : Nat} (ha : a < words) (w : Word14)
    (h : m.wf words = true) : (m.store a w).wf words = true := by
  simp only [ProgramMemory.wf, Bool.and_eq_true] at h ⊢
  unfold ProgramMemory.store
  split
  · exact ⟨risingFrom_removeAt a m h.1, all_removeAt a m h.2⟩
  · next hw => exact ⟨risingFrom_insertAt (Nat.zero_le a) w m h.1, all_insertAt (by simp [ha, hw]) m h.2⟩

end Sys2Proof.Machine
end

