-- ==== Sys2Proof/Laws/Ops.lean ====
section
/-! SUPPORT. For each shared operation of Machine/Ops.lean, one lemma that says all it can do. -/

namespace Sys2Proof.Machine

/-- Two I/O cells have two numbers. -/
theorem ioNumber_injective {a b : IoName} (h : ioNumber a = ioNumber b) : a = b := by
  cases a <;> cases b <;> simp only [ioNumber] at h <;> first | rfl | omega | (congr 1; omega)

/-- The level of an I/O cell after a write to one (R35): the value written, where the parameter says so. -/
theorem ioLevelsAfter_load (name other : IoName) (v : Byte) (s : State) :
    (ioLevelsAfter name v s).load (ioNumber other) =
      if s.params.ioWriteEffect = .latch ∧ other = name then some v else s.ioLevels.load (ioNumber other) := by
  unfold ioLevelsAfter
  cases s.params.ioWriteEffect with
  | record => simp
  | latch =>
    by_cases h : other = name
    · simp [h]
    · have hn : ioNumber other ≠ ioNumber name := fun he => h (ioNumber_injective he)
      simp [h, Memory.load_store_ne hn]

/-- A write to an I/O cell keeps the levels canonical. -/
theorem ioLevelsAfter_rising (name : IoName) (v : Byte) {s : State} (h : risingFrom 0 s.ioLevels = true) :
    risingFrom 0 (ioLevelsAfter name v s) = true := by
  unfold ioLevelsAfter
  split
  · exact h
  · exact risingFrom_insertAt (Nat.zero_le _) v s.ioLevels h

/-- The levels that the platform sets leave them canonical. -/
theorem raiseFlags_rising (x : PlatformInput) {s : State} (h : risingFrom 0 s.ioLevels = true) :
    risingFrom 0 (raiseFlags x s).ioLevels = true := by
  simp only [raiseFlags_ioLevels]
  generalize s.ioLevels = m at h
  induction x.ioLevels generalizing m with
  | nil => exact h
  | cons e rest ih => exact ih _ (risingFrom_insertAt (Nat.zero_le _) e.2 m h)

/-- An input never changes GIE (R184). -/
theorem raiseFlags_flagGIE (x : PlatformInput) (s : State) : flagGIE (raiseFlags x s) = flagGIE s := by
  have h := s.params.intconGIE.isLt
  simp only [flagGIE, raiseFlags_intcon, raiseFlags_params, BitVec.getLsbD_or, BitVec.getLsbD_and, BitVec.getLsbD_not,
    oneBit_getLsbD h, decide_true, Bool.not_true, Bool.and_false, Bool.or_false]

/-- What `push` can do (R27): the address on top; a full stack loses its oldest entry or faults. -/
theorem push_cases (a : Addr13) (s : State) :
    (s.stack.length < s.params.stackDepth ∧ push a s = .ok { s with stack := a :: s.stack }) ∨
    (s.params.stackDepth ≤ s.stack.length ∧ s.params.treatment = .hardware ∧
      push a s = .ok { s with stack := (a :: s.stack).take s.params.stackDepth }) ∨
    (s.params.stackDepth ≤ s.stack.length ∧ s.params.treatment = .verdict ∧ push a s = .error (.stackOverflow a)) := by
  unfold push
  by_cases h : s.stack.length < s.params.stackDepth
  · exact .inl ⟨h, by simp [h]⟩
  · cases ht : s.params.treatment with
    | hardware => exact .inr (.inl ⟨by omega, rfl, by simp [h]⟩)
    | verdict => exact .inr (.inr ⟨by omega, rfl, by simp [h]⟩)

/-- A push that answers changes the stack alone, puts the address on top and keeps at most STACK_DEPTH entries. -/
theorem push_ok {a : Addr13} {s s' : State} (h : push a s = .ok s') :
    s' = { s with stack := (a :: s.stack).take s.params.stackDepth } ∧ s'.stack.length ≤ s.params.stackDepth := by
  rcases push_cases a s with ⟨hl, he⟩ | ⟨_, _, he⟩ | ⟨_, _, he⟩
  · rw [he] at h
    have ht : (a :: s.stack).take s.params.stackDepth = a :: s.stack := by
      apply List.take_of_length_le
      simp only [List.length_cons]
      omega
    refine ⟨by rw [ht]; exact (Except.ok.inj h).symm, ?_⟩
    rw [← Except.ok.inj h]
    simp only [List.length_cons]
    omega
  · rw [he] at h
    refine ⟨(Except.ok.inj h).symm, ?_⟩
    rw [← Except.ok.inj h]
    simp only [List.length_take]
    omega
  · rw [he] at h
    cases h

/-- What `pop` can do (R27): the top entry; the empty stack gives a free value or faults. -/
theorem pop_cases (s : State) :
    (∃ a rest, s.stack = a :: rest ∧ pop s = .ok (a, { s with stack := rest })) ∨
    (s.stack = [] ∧ s.params.treatment = .hardware ∧
      pop s = .ok (Config.staleReturn s.draws, { s with draws := s.draws + 1 })) ∨
    (s.stack = [] ∧ s.params.treatment = .verdict ∧ pop s = .error .stackUnderflow) := by
  unfold pop
  cases hs : s.stack with
  | cons a rest => exact .inl ⟨a, rest, rfl, rfl⟩
  | nil =>
    cases ht : s.params.treatment with
    | hardware => exact .inr (.inl ⟨rfl, rfl, rfl⟩)
    | verdict => exact .inr (.inr ⟨rfl, rfl, rfl⟩)

/-- A `pc <- Pop()` that answers changes pc, the stack (its top gone) and, on the empty stack, the draw counter. -/
theorem popPc_ok {s s' : State} (h : popPc s = .ok s') :
    (∃ a rest, s.stack = a :: rest ∧ s' = { s with pc := a, stack := rest }) ∨
    (s.stack = [] ∧ s.params.treatment = .hardware ∧
      s' = { s with pc := Config.staleReturn s.draws, draws := s.draws + 1 }) := by
  unfold popPc at h
  rcases pop_cases s with ⟨a, rest, hs, he⟩ | ⟨hs, ht, he⟩ | ⟨hs, ht, he⟩
  · rw [he] at h
    exact .inl ⟨a, rest, hs, (Except.ok.inj h).symm⟩
  · rw [he] at h
    exact .inr ⟨hs, ht, (Except.ok.inj h).symm⟩
  · rw [he] at h
    cases h

/-- Interrupt entry that answers (R186): GIE cleared, pc on top of the stack, pc at INT_VECTOR, nothing else. -/
theorem interruptEntry_ok {s s' : State} (h : interruptEntry s = .ok s') :
    s' = { s with
            intcon := setBit s.intcon s.params.intconGIE false
            stack := (s.pc :: s.stack).take s.params.stackDepth
            pc := s.params.intVector } := by
  unfold interruptEntry at h
  cases hp : push s.pc (setGie false s) with
  | error e => rw [hp] at h; cases h
  | ok s1 =>
    rw [hp] at h
    rw [← Except.ok.inj h, (push_ok hp).1]
    rfl

/-- Return from interrupt is a return that sets GIE (R162). -/
theorem interruptReturn_ok {s s' : State} (h : interruptReturn s = .ok s') :
    ∃ s1, popPc s = .ok s1 ∧ s' = setGie true s1 := by
  unfold interruptReturn at h
  cases hp : popPc s with
  | error e => rw [hp] at h; cases h
  | ok s1 => rw [hp] at h; exact ⟨s1, rfl, (Except.ok.inj h).symm⟩

/-- An outcome `next` comes from an operation that answered. -/
theorem toOutcome_next {x : Except Fault State} {t : State} (h : toOutcome x = .next t) : x = .ok t := by
  cases x with
  | ok s => simp only [toOutcome, Host.Outcome.next.injEq] at h; rw [h]
  | error e => simp [toOutcome] at h

end Sys2Proof.Machine
end

