-- ==== Sys2Proof/Laws/Operands.lean ====
section
/-! SUPPORT. What a file access can do, and what the shared shapes of the instructions do. -/

namespace Sys2Proof.Machine

/-- A file access depends on STATUS, FSR and the parameters only. -/
theorem effCell_congr {f : FileAddr} {s t : State} (h1 : t.status = s.status) (h2 : t.fsr = s.fsr)
    (h3 : t.params = s.params) : effCell f t = effCell f s := by
  cases s
  cases t
  simp only at h1 h2 h3
  subst h1 h2 h3
  rfl

/-- The cell number, where a cell is a general-purpose cell. -/
def gprNumber : Cell → Option Nat
  | .gpr n => some n
  | .pcl | .status | .pclath | .intcon | .optionReg | .indf | .fsr | .io _ | .unimplemented _ => none

theorem ref84_gpr_lt : ∀ a : Byte, (gprNumber (ref84Cell a)).all (fun n => decide (n < Config.gprCells)) = true := by
  decide

theorem srcOnlyCell_gpr {p : Params} {f : FileAddr} {n : Nat} (h : srcOnlyCell p f = .gpr n) : n = 3 := by
  unfold srcOnlyCell at h
  (repeat' split at h) <;> cases h
  rfl

theorem lookupAt_mem {α : Type} {k : Nat} {x : α} {l : List (Nat × α)} (h : lookupAt k l = some x) : (k, x) ∈ l := by
  induction l with
  | nil => cases h
  | cons e rest ih =>
    simp only [lookupAt] at h
    split at h
    · next hk => subst hk; cases h; exact List.mem_cons_self
    · exact List.mem_cons_of_mem _ (ih h)

theorem ramCells_of_mem {k n : Nat} {cells : List (Nat × Cell)} (h : (k, Cell.gpr n) ∈ cells) :
    n < (FileMap.table cells).ramCells := by
  simp only [FileMap.ramCells]
  induction cells with
  | nil => cases h
  | cons e rest ih =>
    rcases List.mem_cons.mp h with rfl | h
    · simp only [List.foldr_cons]; omega
    · have := ih h
      simp only [List.foldr_cons]
      split <;> first | exact this | exact Nat.lt_of_lt_of_le this (Nat.le_max_right _ _)

theorem tableCell_gpr_lt {cells : List (Nat × Cell)} {key : BitVec 10} {n : Nat} (h : tableCell cells key = .gpr n) :
    n < (FileMap.table cells).ramCells := by
  unfold tableCell at h
  cases hl : lookupAt key.toNat cells with
  | none => rw [hl] at h; cases h
  | some c => rw [hl] at h; exact ramCells_of_mem (lookupAt_mem (by rw [hl, ← h]; rfl))

/-- The number of a general-purpose cell that an access reaches is one of the map's (68 in REF84, R35). -/
theorem effCell_gpr_lt {f : FileAddr} {s : State} {n : Nat} (h : effCell f s = .gpr n) :
    n < s.params.fileMap.ramCells := by
  cases hm : s.params.fileMap with
  | ref84 =>
    have hr : ∀ a, ref84Cell a = .gpr n → n < Config.gprCells := by
      intro a ha
      have := ref84_gpr_lt a
      rw [ha] at this
      simpa [gprNumber] using this
    simp only [effCell, fileCell, indirectCell, hm] at h
    split at h <;> exact hr _ h
  | srcOnly =>
    simp only [effCell, fileCell, indirectCell, hm] at h
    split at h
    · cases h
    · simp [srcOnlyCell_gpr h, FileMap.ramCells, Config.gprCells]
  | table cells =>
    simp only [effCell, fileCell, indirectCell, hm] at h
    split at h <;> exact tableCell_gpr_lt h

/-- A read that answers changes nothing, but at a platform cell, where it is recorded and advances the draw counter. -/
theorem readCell_state {c : Cell} {s s' : State} {v : Byte} (h : readCell c s = .ok (v, s')) :
    s' = s ∨ ∃ name, c = .io name ∧ s' = (ioRead name s).2 := by
  cases c with
  | gpr n =>
    left
    simp only [readCell, readGpr] at h
    split at h
    · cases h; rfl
    · split at h <;> cases h
      rfl
  | io name => right; exact ⟨name, rfl, by simp only [readCell] at h; cases h; rfl⟩
  | unimplemented a =>
    left
    simp only [readCell] at h
    split at h <;> cases h
    rfl
  | pcl | status | pclath | intcon | optionReg | fsr | indf =>
    left; simp only [readCell] at h; cases h; rfl

/-- Every field but `draws` and `ioLog` is as before a read that answers. -/
theorem readCell_same {c : Cell} {s s' : State} {v : Byte} (h : readCell c s = .ok (v, s')) :
    s' = { s with draws := s'.draws, ioLog := s'.ioLog } := by
  rcases readCell_state h with rfl | ⟨name, _, rfl⟩ <;> rfl

/-- A file read that answers leaves the cell of the operand the same. -/
theorem effCell_after_read {c : Cell} {f : FileAddr} {s s' : State} {v : Byte} (h : readCell c s = .ok (v, s')) :
    effCell f s' = effCell f s := by
  rw [readCell_same h]
  rfl

/-- A write answers unless it goes to an unimplemented cell in the treatment `verdict`. -/
theorem writeCell_ok (fl : FlagWrites) {c : Cell} (v : Byte) {s : State}
    (h : s.params.treatment = .hardware ∨ ∀ a, c ≠ .unimplemented a) : ∃ t, writeCell fl c v s = .ok t := by
  cases c with
  | unimplemented a =>
    rcases h with h | h
    · exact ⟨s, by simp [writeCell, h]⟩
    · exact absurd rfl (h a)
  | pcl | status | pclath | intcon | optionReg | fsr | indf | gpr | io => exact ⟨_, rfl⟩

/-- What a cell can be read, it can be written. -/
theorem readCell_writable {c : Cell} {s s' : State} {v : Byte} (h : readCell c s = .ok (v, s')) :
    s.params.treatment = .hardware ∨ ∀ a, c ≠ .unimplemented a := by
  cases ht : s.params.treatment with
  | hardware => exact .inl rfl
  | verdict =>
    right
    rintro a rfl
    simp [readCell, ht] at h

/-- After a read that answers, the destination can be written. -/
theorem writeDest_after_read {f : FileAddr} {s s' : State} {v : Byte} (h : fileRead f s = .ok (v, s'))
    (fl : FlagWrites) (d : Dest) (r : Byte) : ∃ t, writeDest fl d f r s' = .ok t := by
  cases d with
  | w => exact ⟨_, rfl⟩
  | f =>
    simp only [writeDest, fileWrite, effCell_after_read h]
    apply writeCell_ok
    have hs : s'.params = s.params := by rw [readCell_same h]
    rw [hs]
    exact readCell_writable h

/-- The state after a write that answers: each cell changes its own place alone (R37). -/
def cellWritten (fl : FlagWrites) (c : Cell) (v : Byte) (s : State) : State :=
  match c with
  | .pcl => writePcl v s
  | .status => statusWrite fl v s
  | .pclath => { s with pclath := v.extractLsb' 0 5 }
  | .intcon => { s with intcon := v }
  | .optionReg => { s with option := v }
  | .fsr => { s with fsr := v }
  | .indf => s
  | .gpr n => writeGpr n v s
  | .io name => ioWrite name v s
  | .unimplemented _ => s

/-- A write that answers gives that state. -/
theorem writeCell_eq {fl : FlagWrites} {c : Cell} {v : Byte} {s t : State} (h : writeCell fl c v s = .ok t) :
    t = cellWritten fl c v s := by
  cases c with
  | unimplemented a =>
    simp only [writeCell] at h
    split at h <;> cases h
    rfl
  | pcl | status | pclath | intcon | optionReg | fsr | indf | gpr | io => simp only [writeCell] at h; cases h; rfl

/-- A file read keeps the parameters. -/
theorem fileRead_params {f : FileAddr} {s s' : State} {v : Byte} (h : fileRead f s = .ok (v, s')) :
    s'.params = s.params := by
  rw [readCell_same h]

/-- A write of a destination keeps the parameters. -/
theorem writeDest_params {fl : FlagWrites} {d : Dest} {f : FileAddr} {r : Byte} {s t : State}
    (h : writeDest fl d f r s = .ok t) : t.params = s.params := by
  cases d with
  | w => cases h; rfl
  | f =>
    simp only [writeDest, fileWrite] at h
    rw [writeCell_eq h]
    cases effCell f s <;> rfl

/-- The shared shape `writeResult`: the destination, then the flags. -/
theorem writeResult_ok {d : Dest} {f : FileAddr} {r : Byte} {fl : FlagWrites} {s t : State}
    (h : writeResult d f r fl s = .ok t) : ∃ s1, writeDest fl d f r s = .ok s1 ∧ t = applyFlags fl s1 := by
  unfold writeResult at h
  split at h
  · cases h
  · next s1 h1 => exact ⟨s1, h1, (Except.ok.inj h).symm⟩

/-- The shared shape `byteOp`: read, compute, write the destination, write the flags. -/
theorem byteOp_ok {f : FileAddr} {d : Dest} {op : Byte → Byte → Bool → Byte × FlagWrites} {s t : State}
    (h : byteOp f d op s = .ok t) :
    ∃ v s1 s2, fileRead f s = .ok (v, s1) ∧
      writeDest (op v s1.w (flagC s1)).2 d f (op v s1.w (flagC s1)).1 s1 = .ok s2 ∧
      t = applyFlags (op v s1.w (flagC s1)).2 s2 := by
  unfold byteOp at h
  split at h
  · cases h
  · next v s1 h1 =>
    obtain ⟨s2, h2, h3⟩ := writeResult_ok h
    exact ⟨v, s1, s2, h1, h2, h3⟩

/-- `byteOp` answers where the operand can be read. -/
theorem byteOp_of_read {f : FileAddr} {s s1 : State} {v : Byte} (h : fileRead f s = .ok (v, s1)) (d : Dest)
    (op : Byte → Byte → Bool → Byte × FlagWrites) :
    ∃ s2, writeDest (op v s1.w (flagC s1)).2 d f (op v s1.w (flagC s1)).1 s1 = .ok s2 ∧
      byteOp f d op s = .ok (applyFlags (op v s1.w (flagC s1)).2 s2) := by
  obtain ⟨s2, h2⟩ := writeDest_after_read h (op v s1.w (flagC s1)).2 d (op v s1.w (flagC s1)).1
  exact ⟨s2, h2, by simp only [byteOp, h, writeResult, h2]⟩

/-- The shared shape `skipOp`, but for the form it does not run: the destination, the flags, then the skip. -/
theorem skipOp_ok {f : FileAddr} {d : Dest} {op : Byte → Byte × FlagWrites} {s t : State}
    (h : skipOp f d op s = .ok t) :
    ((d = .f ∧ fileCell f s = .pcl) ∧ contestedPcWrite (op (s.pc.extractLsb' 0 8)).2 s = .ok t) ∨
    (¬(d = .f ∧ fileCell f s = .pcl) ∧ ∃ v s1 s2, fileRead f s = .ok (v, s1) ∧
      writeDest (op v).2 d f (op v).1 s1 = .ok s2 ∧
      t = if (op v).1 = 0#8 then skip (applyFlags (op v).2 s2) else applyFlags (op v).2 s2) := by
  unfold skipOp at h
  split at h
  · next hc => exact .inl ⟨hc, h⟩
  · next hc =>
    refine .inr ⟨hc, ?_⟩
    split at h
    · cases h
    · next v s1 h1 =>
      split at h
      · cases h
      · next s3 h2 =>
        obtain ⟨s2, h3, h4⟩ := writeResult_ok h2
        subst h4
        exact ⟨v, s1, s2, h1, h3, (Except.ok.inj h).symm⟩

/-- The shared shape `bitOp`. -/
theorem bitOp_ok {f : FileAddr} {op : Byte → Byte} {s t : State} (h : bitOp f op s = .ok t) :
    ∃ v s1, fileRead f s = .ok (v, s1) ∧ fileWrite noFlags f (op v) s1 = .ok t := by
  unfold bitOp at h
  split at h
  · cases h
  · next v s1 h1 => exact ⟨v, s1, h1, h⟩

/-- The shared shape `testOp`. -/
theorem testOp_ok {f : FileAddr} {b : BitPos} {x : Bool} {s t : State} (h : testOp f b x s = .ok t) :
    ∃ v s1, fileRead f s = .ok (v, s1) ∧ t = if v.getLsbD b.toNat = x then skip s1 else s1 := by
  unfold testOp at h
  split at h
  · cases h
  · next v s1 h1 => exact ⟨v, s1, h1, (Except.ok.inj h).symm⟩

end Sys2Proof.Machine
end

