-- ==== Sys2Proof/Laws/PerInstr.lean ====
section
/-! SUPPORT. Statements about every instruction as syntax, one lemma for each constructor. -/

namespace Sys2Proof.Laws

/-- The mask of all 14 bits keeps a word. -/
theorem and_allBits (w : Word14) : w &&& 0x3FFF#14 = w := by
  rw [show (0x3FFF#14 : Word14) = BitVec.allOnes 14 from rfl]
  exact BitVec.and_allOnes

/-- The word that stands for a well-formed instruction has every don't-care bit 0 (spec/30_encoding.md R89; log entry
22). -/
def DontCareBitsZero.Statement (i : Instr) : Prop :=
  i.wellFormed = true → encode i &&& careMask i = encode i

theorem DontCareBitsZero.addwf (f : FileAddr) (d : Dest) : DontCareBitsZero.Statement (.addwf f d) := fun _ => and_allBits _

theorem DontCareBitsZero.andwf (f : FileAddr) (d : Dest) : DontCareBitsZero.Statement (.andwf f d) := fun _ => and_allBits _

theorem DontCareBitsZero.clrf (f : FileAddr) : DontCareBitsZero.Statement (.clrf f) := fun _ => and_allBits _

theorem DontCareBitsZero.clrw : DontCareBitsZero.Statement .clrw := fun _ => by decide

theorem DontCareBitsZero.comf (f : FileAddr) (d : Dest) : DontCareBitsZero.Statement (.comf f d) := fun _ => and_allBits _

theorem DontCareBitsZero.decf (f : FileAddr) (d : Dest) : DontCareBitsZero.Statement (.decf f d) := fun _ => and_allBits _

theorem DontCareBitsZero.decfsz (f : FileAddr) (d : Dest) : DontCareBitsZero.Statement (.decfsz f d) := fun _ => and_allBits _

theorem DontCareBitsZero.incf (f : FileAddr) (d : Dest) : DontCareBitsZero.Statement (.incf f d) := fun _ => and_allBits _

theorem DontCareBitsZero.incfsz (f : FileAddr) (d : Dest) : DontCareBitsZero.Statement (.incfsz f d) := fun _ => and_allBits _

theorem DontCareBitsZero.iorwf (f : FileAddr) (d : Dest) : DontCareBitsZero.Statement (.iorwf f d) := fun _ => and_allBits _

theorem DontCareBitsZero.movf (f : FileAddr) (d : Dest) : DontCareBitsZero.Statement (.movf f d) := fun _ => and_allBits _

theorem DontCareBitsZero.movwf (f : FileAddr) : DontCareBitsZero.Statement (.movwf f) := fun _ => and_allBits _

theorem DontCareBitsZero.nop : DontCareBitsZero.Statement .nop := fun _ => by decide

theorem DontCareBitsZero.rlf (f : FileAddr) (d : Dest) : DontCareBitsZero.Statement (.rlf f d) := fun _ => and_allBits _

theorem DontCareBitsZero.rrf (f : FileAddr) (d : Dest) : DontCareBitsZero.Statement (.rrf f d) := fun _ => and_allBits _

theorem DontCareBitsZero.subwf (f : FileAddr) (d : Dest) : DontCareBitsZero.Statement (.subwf f d) := fun _ => and_allBits _

theorem DontCareBitsZero.swapf (f : FileAddr) (d : Dest) : DontCareBitsZero.Statement (.swapf f d) := fun _ => and_allBits _

theorem DontCareBitsZero.xorwf (f : FileAddr) (d : Dest) : DontCareBitsZero.Statement (.xorwf f d) := fun _ => and_allBits _

theorem DontCareBitsZero.bcf (f : FileAddr) (b : BitPos) : DontCareBitsZero.Statement (.bcf f b) := fun _ => and_allBits _

theorem DontCareBitsZero.bsf (f : FileAddr) (b : BitPos) : DontCareBitsZero.Statement (.bsf f b) := fun _ => and_allBits _

theorem DontCareBitsZero.btfsc (f : FileAddr) (b : BitPos) : DontCareBitsZero.Statement (.btfsc f b) := fun _ => and_allBits _

theorem DontCareBitsZero.btfss (f : FileAddr) (b : BitPos) : DontCareBitsZero.Statement (.btfss f b) := fun _ => and_allBits _

theorem DontCareBitsZero.addlw (k : Byte) : DontCareBitsZero.Statement (.addlw k) := by
  intro _
  revert k
  decide

theorem DontCareBitsZero.andlw (k : Byte) : DontCareBitsZero.Statement (.andlw k) := fun _ => and_allBits _

theorem DontCareBitsZero.iorlw (k : Byte) : DontCareBitsZero.Statement (.iorlw k) := fun _ => and_allBits _

theorem DontCareBitsZero.movlw (k : Byte) : DontCareBitsZero.Statement (.movlw k) := by
  intro _
  revert k
  decide

theorem DontCareBitsZero.sublw (k : Byte) : DontCareBitsZero.Statement (.sublw k) := by
  intro _
  revert k
  decide

theorem DontCareBitsZero.xorlw (k : Byte) : DontCareBitsZero.Statement (.xorlw k) := fun _ => and_allBits _

theorem DontCareBitsZero.retlw (k : Byte) : DontCareBitsZero.Statement (.retlw k) := by
  intro _
  revert k
  decide

theorem DontCareBitsZero.clrwdt : DontCareBitsZero.Statement .clrwdt := fun _ => and_allBits _

theorem DontCareBitsZero.option : DontCareBitsZero.Statement .option := fun _ => and_allBits _

theorem DontCareBitsZero.retfie : DontCareBitsZero.Statement .retfie := fun _ => and_allBits _

theorem DontCareBitsZero.ret : DontCareBitsZero.Statement .ret := fun _ => and_allBits _

theorem DontCareBitsZero.sleep : DontCareBitsZero.Statement .sleep := fun _ => and_allBits _

theorem DontCareBitsZero.tris (f : BitVec 3) : DontCareBitsZero.Statement (.tris f) := fun _ => and_allBits _

theorem DontCareBitsZero.call (k : Addr11) : DontCareBitsZero.Statement (.call k) := fun _ => and_allBits _

theorem DontCareBitsZero.goto (k : Addr11) : DontCareBitsZero.Statement (.goto k) := fun _ => and_allBits _

end Sys2Proof.Laws
end

