-- ==== Sys2Proof/Laws/Step.lean ====
section
/-! SUPPORT. What the boundary, the fetch and a step can do, each said once. -/

namespace Sys2Proof.Machine

/-- What stands before an instruction with no reset and no time-out (spec/60_exceptions.md R186, R194, R195). -/
theorem boundaryQuiet_cases (s : State) :
    (s.asleep = true ∧ irq s = true ∧ boundaryQuiet s = .proceed { s with asleep := false }) ∨
    (s.asleep = true ∧ irq s = false ∧ boundaryQuiet s = .settled s) ∨
    (s.asleep = false ∧ interruptPending s = true ∧
      ((∃ s', interruptEntry s = .ok s' ∧ boundaryQuiet s = .proceed s') ∨
        ∃ e, interruptEntry s = .error e ∧ boundaryQuiet s = .stop e)) ∨
    (s.asleep = false ∧ interruptPending s = false ∧ boundaryQuiet s = .proceed s) := by
  unfold boundaryQuiet
  cases ha : s.asleep
  · cases hp : interruptPending s
    · exact .inr (.inr (.inr ⟨rfl, rfl, by simp⟩))
    · cases he : interruptEntry s with
      | ok s' => exact .inr (.inr (.inl ⟨rfl, rfl, .inl ⟨s', rfl, by simp⟩⟩))
      | error e => exact .inr (.inr (.inl ⟨rfl, rfl, .inr ⟨e, rfl, by simp⟩⟩))
  · cases hi : irq s
    · exact .inr (.inl ⟨rfl, rfl, by simp⟩)
    · exact .inl ⟨rfl, rfl, by simp⟩

/-- A boundary with no input listed is the quiet one. -/
theorem boundary_of_no_input {s : State} (h : s.inputs = []) : boundary s = boundaryQuiet s := by
  simp only [boundary, h]

/-- A boundary with an input takes it off the list. -/
theorem boundary_of_input {s : State} {x : PlatformInput} {rest : List PlatformInput} (h : s.inputs = x :: rest) :
    boundary s = deliver x { s with inputs := rest } := by
  simp only [boundary, h]

/-- What an input can do (spec/60_exceptions.md R183, R185, R190): set its flags and lines, then the quiet boundary, a
time-out or a reset. -/
theorem deliver_cases (x : PlatformInput) (s : State) :
    (x.event = none ∧ deliver x s = boundaryQuiet (raiseFlags x s)) ∨
    (x.event = some .watchdogTimeout ∧ deliver x s = boundaryTimeout (raiseFlags x s)) ∨
    (x.event = some .externalReset ∧ deliver x s = .settled (externalResetState (raiseFlags x s))) ∨
    (x.event = some .powerOnReset ∧ deliver x s = .settled (powerOnState (raiseFlags x s))) := by
  unfold deliver
  rcases x.event with _ | e
  · exact .inl ⟨rfl, rfl⟩
  · cases e
    · exact .inr (.inl ⟨rfl, rfl⟩)
    · exact .inr (.inr (.inl ⟨rfl, rfl⟩))
    · exact .inr (.inr (.inr ⟨rfl, rfl⟩))

/-- A fetch that answers: pc implemented, the word decoded, pc advanced, nothing else (R24). -/
theorem fetch_ok {s s' : State} {i : Instr} (h : fetch s = .ok (i, s')) :
    s.pc.toNat < s.params.progWords ∧ decode (progRead s.pc s) = some i ∧ s' = { s with pc := s.pc + 1#13 } := by
  unfold fetch at h
  split at h
  · next hp =>
    split at h
    · next j hd =>
      simp only [Except.ok.injEq, Prod.mk.injEq] at h
      exact ⟨hp, by rw [hd, h.1], h.2.symm⟩
    · cases h
  · cases h

/-- A step that answers a next state: a settled boundary, or an instruction that was fetched and ran. -/
theorem step_next {s t : State} (h : step s = .next t) :
    boundary s = .settled t ∨
      ∃ s1 i, boundary s = .proceed s1 ∧ s1.pc.toNat < s1.params.progWords ∧ decode (progRead s1.pc s1) = some i ∧
        exec i { s1 with pc := s1.pc + 1#13 } = .next t := by
  unfold step at h
  split at h
  · next s' hb =>
    simp only [Host.Outcome.next.injEq] at h
    exact .inl (by rw [hb, h])
  · cases h
  · next s1 hb =>
    split at h
    · cases h
    · next i s'' hf =>
      obtain ⟨hp, hd, rfl⟩ := fetch_ok hf
      exact .inr ⟨s1, i, hb, hp, hd, h⟩

end Sys2Proof.Machine
end

