-- ==== Sys2Proof/Tests/Slice0.lean ====
section
/-! SUPPORT. Tests on fixed values, and for every statement with hypotheses a concrete case that meets them. The words and
the expected results are those of spec/95_test_vectors.md; words are written bit by bit from spec/30_encoding.md R87. -/

namespace Sys2Proof.Tests

open Sys2Proof.Machine Sys2Proof.Claims

/-! ### Well-formed instructions -/

theorem test_tris_operand_0_refused : (Instr.tris 0#3).wellFormed = false := by decide

theorem test_tris_operand_4_refused : (Instr.tris 4#3).wellFormed = false := by decide

theorem test_tris_operands_accepted :
    (Instr.tris 5#3).wellFormed = true ∧ (Instr.tris 6#3).wellFormed = true ∧ (Instr.tris 7#3).wellFormed = true := by
  decide

/-! ### Decoding, a word for every instruction -/

theorem test_decode_byte_oriented_1 :
    decode 0b00011110001111#14 = some (.addwf 0x0F#7 .f) ∧ decode 0b00010100001111#14 = some (.andwf 0x0F#7 .w) ∧
    decode 0b00000110001111#14 = some (.clrf 0x0F#7) ∧ decode 0b00000101111111#14 = some .clrw ∧
    decode 0b00100110000101#14 = some (.comf 0x05#7 .f) ∧ decode 0b00001110001111#14 = some (.decf 0x0F#7 .f) ∧
    decode 0b00101110001111#14 = some (.decfsz 0x0F#7 .f) ∧ decode 0b00101010001111#14 = some (.incf 0x0F#7 .f) ∧
    decode 0b00111111111111#14 = some (.incfsz 0x7F#7 .f) := by decide

theorem test_decode_byte_oriented_2 :
    decode 0b00010010000101#14 = some (.iorwf 0x05#7 .f) ∧ decode 0b00100000000101#14 = some (movfw 0x05#7) ∧
    decode 0b00000010000101#14 = some (.movwf 0x05#7) ∧ decode 0b00000001100000#14 = some .nop ∧
    decode 0b00110110001111#14 = some (.rlf 0x0F#7 .f) ∧ decode 0b00110010001111#14 = some (.rrf 0x0F#7 .f) ∧
    decode 0b00001000000000#14 = some (.subwf 0x00#7 .w) ∧ decode 0b00111000001111#14 = some (.swapf 0x0F#7 .w) ∧
    decode 0b00011010001111#14 = some (.xorwf 0x0F#7 .f) := by decide

theorem test_decode_bit_oriented :
    decode 0b01001110000011#14 = some (.bcf 0x03#7 7#3) ∧ decode 0b01011110000101#14 = some (.bsf 0x05#7 7#3) ∧
    decode 0b01101110000011#14 = some (.btfsc 0x03#7 7#3) ∧ decode 0b01110100000101#14 = some (.btfss 0x05#7 2#3) := by
  decide

theorem test_decode_literal :
    decode 0b11111011100101#14 = some (.addlw 0xE5#8) ∧ decode 0b11100100001111#14 = some (.andlw 0x0F#8) ∧
    decode 0b11100011110000#14 = some (.iorlw 0xF0#8) ∧ decode 0b11001110101000#14 = some (.movlw 0xA8#8) ∧
    decode 0b11110100000010#14 = some (.sublw 0x02#8) ∧ decode 0b11101010101111#14 = some (.xorlw 0xAF#8) ∧
    decode 0b11011111111111#14 = some (.retlw 0xFF#8) := by decide

theorem test_decode_control :
    decode 0b00000001100100#14 = some .clrwdt ∧ decode 0b00000001100010#14 = some .option ∧
    decode 0b00000000001001#14 = some .retfie ∧ decode 0b00000000001000#14 = some .ret ∧
    decode 0b00000001100011#14 = some .sleep ∧ decode 0b00000001100101#14 = some (.tris 5#3) ∧
    decode 0b10000100100011#14 = some (.call 0x123#11) ∧ decode 0b10111111111111#14 = some (.goto 0x7FF#11) := by decide

/-- The illegal words of section 2.7. -/
theorem test_decode_unassigned :
    decode 0x0001#14 = none ∧ decode 0x000A#14 = none ∧ decode 0x0010#14 = none ∧ decode 0x0061#14 = none ∧
    decode 0x0068#14 = none ∧ decode 0x007F#14 = none ∧ decode 0x3B00#14 = none ∧ decode 0x3BFF#14 = none := by decide

theorem test_decodeTableWord :
    decodeTableWord 16 0x3FFF = some (.addlw 0xFF#8) ∧ decodeTableWord 16 0x4000 = none := by decide

/-! ### One step -/

/-- W, the cell at h'0F' (M) and STATUS as given; pc = h'0010'. -/
def st (w m status : Byte) : State := { State.reset with w := w, status := status, ram := [(3, m)], pc := 0x0010#13 }

/-- One step with the word `x` at pc. -/
def stepWord (x : Word14) (s : State) : Host.Outcome State Fault Refusal := step { s with prog := [(s.pc.toNat, x)] }

/-- Look at the next state. -/
def look {α : Type} (o : Host.Outcome State Fault Refusal) (p : State → α) : Option α :=
  match o with
  | .next t => some (p t)
  | .fault _ => none
  | .refused _ => none

/-- The fault of a step. -/
def faultOf (o : Host.Outcome State Fault Refusal) : Option Fault :=
  match o with
  | .fault e => some e
  | .next _ => none
  | .refused _ => none

/-- W, M, STATUS, pc. -/
def view (t : State) : Byte × Option Byte × Byte × Nat := (t.w, t.ram.load 3, t.status, t.pc.toNat)

theorem test_addwf :
    look (stepWord 0x078F#14 (st 0x01 0xFF 0x18)) view = some (0x01, some 0x00, 0x1F, 0x11) ∧
    look (stepWord 0x070F#14 (st 0x80 0x80 0x18)) view = some (0x00, some 0x80, 0x1D, 0x11) := by decide

theorem test_andwf :
    look (stepWord 0x050F#14 (st 0x0F 0xA5 0x18)) view = some (0x05, some 0xA5, 0x18, 0x11) ∧
    look (stepWord 0x058F#14 (st 0xF0 0x0F 0x18)) view = some (0xF0, some 0x00, 0x1C, 0x11) := by decide

theorem test_clrf : look (stepWord 0x018F#14 (st 0x33 0xA5 0x1B)) view = some (0x33, some 0x00, 0x1F, 0x11) := by decide

theorem test_clrw : look (stepWord 0x017F#14 (st 0xA5 0x66 0x18)) view = some (0x00, some 0x66, 0x1C, 0x11) := by decide

theorem test_comf :
    look (stepWord 0x090F#14 (st 0x00 0xA5 0x18)) view = some (0x5A, some 0xA5, 0x18, 0x11) ∧
    look (stepWord 0x098F#14 (st 0x77 0xFF 0x18)) view = some (0x77, some 0x00, 0x1C, 0x11) := by decide

theorem test_decf :
    look (stepWord 0x038F#14 (st 0x00 0x00 0x19)) view = some (0x00, some 0xFF, 0x19, 0x11) ∧
    look (stepWord 0x038F#14 (st 0x00 0x01 0x18)) view = some (0x00, some 0x00, 0x1C, 0x11) := by decide

theorem test_decfsz :
    look (stepWord 0x0B8F#14 (st 0x00 0x01 0x18)) view = some (0x00, some 0x00, 0x18, 0x12) ∧
    look (stepWord 0x0B8F#14 (st 0x00 0x00 0x18)) view = some (0x00, some 0xFF, 0x18, 0x11) := by decide

theorem test_incf :
    look (stepWord 0x0A8F#14 (st 0x00 0xFF 0x18)) view = some (0x00, some 0x00, 0x1C, 0x11) ∧
    look (stepWord 0x0A8F#14 (st 0x00 0x7F 0x18)) view = some (0x00, some 0x80, 0x18, 0x11) := by decide

theorem test_incfsz :
    look (stepWord 0x0F8F#14 (st 0x00 0xFF 0x18)) view = some (0x00, some 0x00, 0x18, 0x12) ∧
    look (stepWord 0x0F8F#14 (st 0x00 0xFE 0x18)) view = some (0x00, some 0xFF, 0x18, 0x11) := by decide

theorem test_iorwf :
    look (stepWord 0x048F#14 (st 0xF0 0x0F 0x18)) view = some (0xF0, some 0xFF, 0x18, 0x11) ∧
    look (stepWord 0x040F#14 (st 0x00 0x00 0x18)) view = some (0x00, some 0x00, 0x1C, 0x11) := by decide

theorem test_movf :
    look (stepWord 0x088F#14 (st 0x77 0x00 0x18)) view = some (0x77, some 0x00, 0x1C, 0x11) ∧
    look (stepWord 0x080F#14 (st 0x00 0xA5 0x18)) view = some (0xA5, some 0xA5, 0x18, 0x11) := by decide

theorem test_movwf : look (stepWord 0x008F#14 (st 0x55 0x00 0x1C)) view = some (0x55, some 0x55, 0x1C, 0x11) := by decide

theorem test_nop : look (stepWord 0x0060#14 (st 0x55 0x12 0x1C)) view = some (0x55, some 0x12, 0x1C, 0x11) := by decide

theorem test_rlf :
    look (stepWord 0x0D8F#14 (st 0x00 0xE6 0x18)) view = some (0x00, some 0xCC, 0x19, 0x11) ∧
    look (stepWord 0x0D8F#14 (st 0x77 0x00 0x19)) view = some (0x77, some 0x01, 0x18, 0x11) := by decide

theorem test_rrf :
    look (stepWord 0x0C8F#14 (st 0x00 0xE6 0x18)) view = some (0x00, some 0x73, 0x18, 0x11) ∧
    look (stepWord 0x0C8F#14 (st 0x77 0x00 0x19)) view = some (0x77, some 0x80, 0x18, 0x11) := by decide

theorem test_subwf :
    look (stepWord 0x028F#14 (st 0x02 0x03 0x18)) view = some (0x02, some 0x01, 0x1B, 0x11) ∧
    look (stepWord 0x028F#14 (st 0x02 0x01 0x18)) view = some (0x02, some 0xFF, 0x18, 0x11) := by decide

theorem test_swapf :
    look (stepWord 0x0E0F#14 (st 0x00 0xA5 0x1C)) view = some (0x5A, some 0xA5, 0x1C, 0x11) ∧
    look (stepWord 0x0E8F#14 (st 0x00 0xF0 0x18)) view = some (0x00, some 0x0F, 0x18, 0x11) := by decide

theorem test_xorwf :
    look (stepWord 0x068F#14 (st 0xB5 0xAF 0x18)) view = some (0xB5, some 0x1A, 0x18, 0x11) ∧
    look (stepWord 0x060F#14 (st 0xA5 0xA5 0x18)) view = some (0x00, some 0xA5, 0x1C, 0x11) := by decide

theorem test_bcf :
    look (stepWord 0x138F#14 (st 0x00 0xFF 0x18)) view = some (0x00, some 0x7F, 0x18, 0x11) ∧
    look (stepWord 0x100F#14 (st 0x00 0x01 0x18)) view = some (0x00, some 0x00, 0x18, 0x11) := by decide

theorem test_bsf :
    look (stepWord 0x178F#14 (st 0x00 0x00 0x18)) view = some (0x00, some 0x80, 0x18, 0x11) ∧
    look (stepWord 0x150F#14 (st 0x00 0xFB 0x18)) view = some (0x00, some 0xFF, 0x18, 0x11) := by decide

theorem test_btfsc :
    look (stepWord 0x1B8F#14 (st 0x00 0x80 0x18)) view = some (0x00, some 0x80, 0x18, 0x11) ∧
    look (stepWord 0x1B8F#14 (st 0x00 0x7F 0x18)) view = some (0x00, some 0x7F, 0x18, 0x12) := by decide

theorem test_btfss :
    look (stepWord 0x1D0F#14 (st 0x00 0x04 0x18)) view = some (0x00, some 0x04, 0x18, 0x12) ∧
    look (stepWord 0x1D0F#14 (st 0x00 0xFB 0x18)) view = some (0x00, some 0xFB, 0x18, 0x11) := by decide

theorem test_addlw :
    look (stepWord 0x3EE5#14 (st 0x1B 0x00 0x18)) view = some (0x00, some 0x00, 0x1F, 0x11) ∧
    look (stepWord 0x3E01#14 (st 0x7F 0x00 0x18)) view = some (0x80, some 0x00, 0x1A, 0x11) := by decide

theorem test_andlw : look (stepWord 0x390F#14 (st 0xA5 0x00 0x18)) view = some (0x05, some 0x00, 0x18, 0x11) := by decide

theorem test_iorlw : look (stepWord 0x38F0#14 (st 0x05 0x00 0x1C)) view = some (0xF5, some 0x00, 0x18, 0x11) := by decide

theorem test_movlw : look (stepWord 0x33A8#14 (st 0x00 0x00 0x1C)) view = some (0xA8, some 0x00, 0x1C, 0x11) := by decide

theorem test_sublw :
    look (stepWord 0x3C02#14 (st 0x03 0x00 0x18)) view = some (0xFF, some 0x00, 0x18, 0x11) ∧
    look (stepWord 0x3C20#14 (st 0x0F 0x00 0x18)) view = some (0x11, some 0x00, 0x19, 0x11) := by decide

theorem test_xorlw : look (stepWord 0x3AFF#14 (st 0xFF 0x00 0x18)) view = some (0x00, some 0x00, 0x1C, 0x11) := by decide

theorem test_retlw :
    look (stepWord 0x3444#14 { st 0x00 0x00 0x18 with stack := [0x0002#13] }) (fun t => (t.w, t.pc.toNat, t.stack)) =
      some (0x44, 0x0002, []) := by decide

theorem test_clrwdt :
    look (stepWord 0x0064#14 { st 0x00 0x00 0x05 with wdt := 7, wdtPrescaler := 3 })
      (fun t => (t.status, t.wdt, t.wdtPrescaler)) = some (0x1D, 0, 0) := by decide

theorem test_sleep :
    look (stepWord 0x0063#14 { st 0x00 0x00 0x08 with pc := 0x0020#13, wdt := 7, wdtPrescaler := 3 })
      (fun t => (t.status, t.wdt, t.wdtPrescaler, t.asleep, t.pc.toNat)) = some (0x10, 0, 0, true, 0x0021) := by decide

theorem test_option :
    look (stepWord 0x0062#14 (st 0xD7 0x00 0x18)) (fun t => (t.option, t.w)) = some (0xD7, 0xD7) := by decide

theorem test_retfie :
    look (stepWord 0x0009#14 { st 0x00 0x00 0x18 with stack := [0x0123#13] })
      (fun t => (t.pc.toNat, flagGIE t, t.stack)) = some (0x0123, true, []) := by decide

theorem test_return :
    look (stepWord 0x0008#14 { st 0x00 0x00 0x18 with stack := [0x0002#13, 0x0100#13] })
      (fun t => (t.pc.toNat, t.stack)) = some (0x0002, [0x0100#13]) := by decide

/-- The column "what the hardware does" of R181 and the words of R165. -/
theorem test_tris :
    look (stepWord 0x0066#14 (st 0xF0 0x00 0x18)) (fun t => (t.ioLog, t.w, t.status)) =
      some ([.write .trisb 0xF0], 0xF0, 0x18) := by decide

theorem test_call :
    look (stepWord 0x2123#14 { st 0x00 0x00 0x18 with pclath := 0x18#5 }) (fun t => (t.stack, t.pc.toNat)) =
      some ([0x0011#13], 0x1923) ∧
    look (stepWord 0x2123#14 { st 0x00 0x00 0x18 with pclath := 0x10#5 }) (fun t => (t.stack, t.pc.toNat)) =
      some ([0x0011#13], 0x1123) := by decide

theorem test_goto :
    look (stepWord 0x2FFF#14 { st 0x00 0x00 0x18 with pclath := 0x08#5 }) (fun t => t.pc.toNat) = some 0x0FFF ∧
    look (stepWord 0x2FFF#14 { st 0x00 0x00 0x18 with pclath := 0x07#5 }) (fun t => t.pc.toNat) = some 0x07FF := by decide

/-! ### STATUS, PCL and INDF as operands (section 2.3; R39) -/

theorem test_status_destination :
    look (stepWord 0x0183#14 (st 0x00 0x00 0xFF)) (fun t => t.status) = some 0x1C ∧
    look (stepWord 0x0183#14 (st 0x00 0x00 0x00)) (fun t => t.status) = some 0x04 ∧
    look (stepWord 0x0083#14 (st 0xFF 0x00 0x00)) (fun t => t.status) = some 0xE7 ∧
    look (stepWord 0x1203#14 (st 0x00 0x00 0x18)) (fun t => t.status) = some 0x18 ∧
    look (stepWord 0x1683#14 (st 0x00 0x00 0x18)) (fun t => t.status) = some 0x38 := by decide

theorem test_pcl_destination :
    look (stepWord 0x0782#14 { st 0x03 0x00 0x18 with pc := 0x0004#13 }) (fun t => t.pc.toNat) = some 0x0008 ∧
    look (stepWord 0x0782#14 { st 0x03 0x00 0x18 with pc := 0x00FE#13 }) (fun t => (t.pc.toNat, t.status)) =
      some (0x0002, 0x1B) ∧
    look (stepWord 0x0782#14 { st 0x02 0x00 0x18 with pc := 0x0304#13 }) (fun t => t.pc.toNat) = some 0x0007 ∧
    look (stepWord 0x0082#14 { st 0x40 0x00 0x18 with pclath := 0x05#5 }) (fun t => t.pc.toNat) = some 0x0540 ∧
    look (stepWord 0x0802#14 { st 0x00 0x00 0x18 with pc := 0x0123#13 }) (fun t => (t.w, t.pc.toNat)) =
      some (0x24, 0x0124) := by decide

theorem test_indirect :
    look (stepWord 0x0080#14 { st 0x5A 0x00 0x18 with fsr := 0x8F#8 }) view = some (0x5A, some 0x5A, 0x18, 0x11) := by decide

/-! ### Faults, interrupts, sleep, reset -/

/-- The treatment in which the model faults of R181 are raised. -/
def verdict : Params := { Config.defaultParams with treatment := .verdict }

theorem test_faults :
    faultOf (stepWord 0x3444#14 { st 0x00 0x00 0x18 with params := verdict }) = some .stackUnderflow ∧
    faultOf (stepWord 0x0067#14 { st 0x00 0x00 0x18 with params := verdict }) = some .unmodelledForm ∧
    faultOf (stepWord 0x0B82#14 { st 0x00 0x00 0x18 with params := verdict }) = some .unmodelledForm ∧
    faultOf (stepWord 0x2123#14 { st 0x00 0x00 0x18 with params := verdict, stack := List.replicate 8 0x0001#13 }) =
      some (.stackOverflow 0x0011#13) ∧
    faultOf (stepWord 0x3B00#14 (st 0x00 0x00 0x18)) = some (.illegalOpcode 0x3B00#14) ∧
    faultOf (stepWord 0x0000#14 { st 0x00 0x00 0x18 with pc := 0x0400#13 }) = some (.fetchOutOfRange 0x0400#13) := by
  decide

/-- In `verdict`, an operand that reaches no cell (R36, R37), or a cell nothing has written (R41): MOVF, BSF, BTFSC, INCFSZ;
CLRF and MOVWF, which read nothing. -/
theorem test_operand_faults :
    faultOf (stepWord 0x0850#14 { st 0x00 0x00 0x18 with params := verdict }) = some (.unimplementedFile 0x50#8) ∧
    faultOf (stepWord 0x16D0#14 { st 0x00 0x00 0x38 with params := verdict }) = some (.unimplementedFile 0xD0#8) ∧
    faultOf (stepWord 0x180C#14 { st 0x00 0x00 0x18 with params := verdict }) = some (.readUnwritten 0) ∧
    faultOf (stepWord 0x0F8C#14 { st 0x00 0x00 0x18 with params := verdict }) = some (.readUnwritten 0) ∧
    faultOf (stepWord 0x01D0#14 { st 0x00 0x00 0x18 with params := verdict }) = some (.unimplementedFile 0x50#8) ∧
    faultOf (stepWord 0x00D0#14 { st 0x00 0x00 0x18 with params := verdict }) = some (.unimplementedFile 0x50#8) := by
  decide

/-- The platform whose request is REF84's formula. -/
def wired : Params := { Config.defaultParams with irqSource := .ref84 }

/-- A state with a request of timer 0; GIE as given. -/
def requested (gie : Bool) : State :=
  { State.reset with
    pc := 0x0012#13, intcon := (if gie then 0xA4#8 else 0x24#8), prog := [(0x0004, 0x0009#14)], params := wired }

theorem test_interrupt_entry :
    look (step { requested true with prog := [] }) (fun t => (t.pc.toNat, flagGIE t, t.stack)) =
      some (0x0005, false, [0x0012#13]) ∧
    look (step (requested false)) (fun t => (t.pc.toNat, flagGIE t, t.stack)) = some (0x0013, false, []) := by decide

theorem test_retfie_with_the_flag_still_set :
    look (step (requested true)) (fun t => (t.pc.toNat, flagGIE t, t.stack)) = some (0x0012, true, []) := by decide

theorem test_wake :
    look (step { requested false with asleep := true, pc := 0x0021#13, status := 0x10#8 })
      (fun t => (t.asleep, t.pc.toNat, flagTO t, flagPD t)) = some (false, 0x0022, true, false) := by decide

/-- INTF and RBIF rise at one boundary (R183); the entry comes before the instruction at pc. -/
theorem test_two_flags_at_once :
    look (step { requested true with
        intcon := 0x98#8
        prog := []
        inputs := [{ PlatformInput.quiet with externalInterrupt := true, portBChange := true }] })
      (fun t => (t.intcon, t.pc.toNat, t.inputs)) = some (0x1B, 0x0005, []) := by decide

/-- With INTCON_GIE at bit 2 an input that raises T0IF leaves GIE as it is (R184). -/
theorem test_input_never_sets_gie :
    look (step { State.reset with
        params := { Config.defaultParams with intconGIE := 2 }
        inputs := [{ PlatformInput.quiet with timer0Overflow := true, portBChange := true }] })
      (fun t => (t.intcon, flagGIE t)) = some (0x01, false) := by decide

/-- A platform whose cells are latches, one cell of its own (PORTC, say) at h'07'. -/
def latches : Params :=
  { Config.defaultParams with
    fileMap := .table [(0x03, .status), (0x05, .io .porta), (0x07, .io (.other 0)), (0x0F, .gpr 3)]
    ioReadSource := .level
    ioWriteEffect := .latch }

/-- MOVWF h'07' writes the cell, MOVF h'07',0 reads back what was written. -/
theorem test_latch_read_back :
    look (stepWord 0x0087#14 { st 0x55 0x00 0x18 with params := latches }) (fun t => t.ioLevels.load 10) = some (some 0x55) ∧
    look (stepWord 0x0807#14 { st 0x00 0x00 0x18 with params := latches, ioLevels := [(10, 0x55#8)] })
      (fun t => (t.w, t.ioLog)) = some (0x55, [.read (.other 0) 0x55]) := by decide

/-- In SRC-ONLY the operand h'01' reaches OPTION_REG, whose open address is h'81' (R4, R35), and no bank changes that. -/
theorem test_srcOnly_option_reg :
    look (stepWord 0x0081#14 { st 0x3C 0x00 0x38 with params := { Config.defaultParams with fileMap := .srcOnly } })
      (fun t => t.option) = some 0x3C := by decide

theorem test_reset_memory :
    State.reset.ram.wf State.reset.params.fileMap.ramCells = true ∧
    State.reset.prog.wf State.reset.params.progWords = true := by decide

theorem test_reset_fetches_the_erased_word :
    look (step State.reset) (fun t => (t.w, t.pc.toNat)) = some (0xFF, 0x0001) := by decide

/-! ### Concrete cases that meet the hypotheses of the statements

`witness_<Name>` is for the obligation `<Name>`; a number tells the clauses apart. -/

/-- W = 5A, M = A5, pc = h'0010'. -/
def w0 : State := st 0x5A#8 0xA5#8 0x18#8

/-- The same in the treatment `verdict`. -/
def w0v : State := { w0 with params := verdict }

/-- A full stack. -/
def full (s : State) : State := { s with stack := List.replicate 8 0x0001#13 }

/-- One return address less. -/
def almostFull (s : State) : State := { s with stack := List.replicate 7 0x0001#13 }

/-- The state with a word at address 4 and at pc. -/
def withProg (x : Word14) (s : State) : State := { s with prog := [(0x0004, x), (s.pc.toNat, x)] }

theorem witness_DecodeOfEncode :
    (Instr.tris 7#3).wellFormed = true ∧ (Instr.incfsz 0x7F#7 .f).wellFormed = true := by decide

theorem witness_EncodeOfDecode : decode 0x3FFF#14 = some (.addlw 0xFF#8) ∧ decode 0x0000#14 = some .nop := by decide

/-- The fetch after an interrupt entry: the word at INT_VECTOR is unassigned. -/
theorem witness_UnassignedWordsFault_2 :
    let s : State := { requested true with prog := [(0x0004, 0x3B00#14)] }
    let s1 : State := { s with pc := 0x0004#13, intcon := 0x24#8, stack := [0x0012#13] }
    boundary s = .proceed s1 ∧ s1.pc.toNat < s1.params.progWords ∧ decode (progRead s1.pc s1) = none := by decide

theorem witness_UnassignedWordsFault_1 :
    boundary (withProg 0x3B00#14 { w0 with pc := 0x03FF#13 }) = .proceed (withProg 0x3B00#14 { w0 with pc := 0x03FF#13 }) ∧
    Undisturbed (withProg 0x3B00#14 { w0 with pc := 0x03FF#13 }) ∧
    (withProg 0x3B00#14 { w0 with pc := 0x03FF#13 }).pc.toNat < w0.params.progWords ∧
    decode (progRead 0x03FF#13 (withProg 0x3B00#14 { w0 with pc := 0x03FF#13 })) = none := by
  refine ⟨rfl, ⟨rfl, rfl, ?_⟩, ?_, ?_⟩ <;> decide

theorem witness_StepKeepsInvariant_1 : Inv w0 ∧ ∃ t, step w0 = .next t := ⟨⟨by decide, by decide⟩, _, rfl⟩

theorem witness_StepKeepsInvariant_2 :
    Inv { full w0 with asleep := true, status := 0x10#8 } ∧
    ∃ t, step { full w0 with asleep := true, status := 0x10#8 } = .next t := ⟨⟨by decide, by decide⟩, _, rfl⟩

theorem witness_StepRunsDecodedInstruction :
    Undisturbed { w0 with pc := 0x03FF#13 } ∧ boundary { w0 with pc := 0x03FF#13 } = .proceed { w0 with pc := 0x03FF#13 } ∧
    0x03FF < w0.params.progWords ∧ decode (progRead 0x03FF#13 w0) = some (.addlw 0xFF#8) := by
  refine ⟨⟨rfl, rfl, ?_⟩, rfl, ?_, ?_⟩ <;> decide

theorem witness_FetchOutOfRangeStops_1 :
    boundary { w0 with pc := 0x0400#13 } = .proceed { w0 with pc := 0x0400#13 } ∧
    w0.params.progWords ≤ (0x0400#13).toNat := by decide

/-- A core that wakes, beyond the end of program memory. -/
theorem witness_FetchOutOfRangeStops_2 :
    boundary { requested true with asleep := true, pc := 0x1FFF#13 } = .proceed { requested true with pc := 0x1FFF#13 } ∧
    wired.progWords ≤ (0x1FFF#13).toNat := by decide

theorem witness_PlacedWordRuns :
    stateWf { w0 with pc := 0x03FF#13 } = true ∧ Undisturbed { w0 with pc := 0x03FF#13 } ∧
    (0x03FF#13).toNat < w0.params.progWords ∧ decode 0x3FFF#14 = some (.addlw 0xFF#8) := by
  refine ⟨?_, ⟨rfl, rfl, ?_⟩, ?_, ?_⟩ <;> decide

theorem witness_FileReadByCell_1 :
    fileCell 0x02#7 w0 = .pcl ∧ fileCell 0x03#7 w0 = .status ∧ fileCell 0x0A#7 w0 = .pclath ∧
    fileCell 0x0B#7 w0 = .intcon ∧ fileCell 0x01#7 { w0 with status := 0x38#8 } = .optionReg ∧
    fileCell 0x04#7 w0 = .fsr ∧ fileCell 0x00#7 w0 = .indf ∧ fileCell 0x01#7 w0 = .io .tmr0 := by decide

theorem witness_FileReadByCell_2 :
    (fileCell 0x0F#7 w0 = .gpr 3 ∧ w0.ram.load 3 = some 0xA5#8) ∧
    (fileCell 0x0C#7 w0v = .gpr 0 ∧ w0v.ram.load 0 = none ∧ w0v.params.treatment = .verdict) ∧
    (fileCell 0x4F#7 w0 = .gpr 67 ∧ w0.ram.load 67 = none ∧ w0.params.treatment = .hardware) := by decide

theorem witness_FileReadByCell_3 :
    (fileCell 0x50#7 w0v = .unimplemented 0x50#8 ∧ w0v.params.treatment = .verdict) ∧
    (fileCell 0x07#7 w0 = .unimplemented 0x07#8 ∧ w0.params.treatment = .hardware) := by decide

theorem witness_FileReadByCell_4 :
    fileCell 0x07#7 { w0 with params := latches } = .io (.other 0) ∧ latches.ioReadSource = .level ∧
    ({ w0 with params := latches, ioLevels := [(10, 0x55#8)] } : State).ioLevels.load (ioNumber (.other 0)) = some 0x55#8 := by
  decide

theorem witness_FileWriteByCell_1 :
    fileCell 0x02#7 w0 = .pcl ∧ fileCell 0x0A#7 w0 = .pclath ∧ fileCell 0x0B#7 w0 = .intcon ∧
    fileCell 0x01#7 { w0 with status := 0x38#8 } = .optionReg ∧ fileCell 0x04#7 w0 = .fsr ∧
    fileCell 0x0C#7 w0 = .gpr 0 ∧ fileCell 0x4F#7 w0 = .gpr 67 ∧ fileCell 0x05#7 w0 = .io .porta := by decide

theorem witness_FileWriteByCell_2 :
    (fileCell 0x7F#7 w0v = .unimplemented 0x7F#8 ∧ w0v.params.treatment = .verdict) ∧
    (fileCell 0x7F#7 w0 = .unimplemented 0x7F#8 ∧ w0.params.treatment = .hardware) := by decide

theorem witness_ReadableExactlyWhen_1 :
    (fileRead 0x50#7 w0v = .error (.unimplementedFile 0x50#8) ∧ fileSource (.btfss 0x50#7 7#3) = some 0x50#7) ∧
    (fileRead 0x4F#7 w0v = .error (.readUnwritten 67) ∧ fileSource (.decfsz 0x4F#7 .w) = some 0x4F#7) := by decide

theorem witness_ReadableExactlyWhen_2 :
    NoCellFault 0x7F#7 w0v (.unimplementedFile 0x7F#8) ∧ fileRead 0x0F#7 w0v = .ok (0xA5#8, w0v) :=
  ⟨⟨rfl, _, rfl, rfl⟩, rfl⟩

/-- The two values of `io_write`, which `WroteIo` tells apart; for TRIS and for the frame of TRIS too. -/
theorem witness_WroteIo :
    w0.params.ioWriteEffect = .record ∧ fileCell 0x05#7 w0 = .io .porta ∧ latches.ioWriteEffect = .latch ∧
    fileCell 0x05#7 { w0 with params := latches } = .io .porta := by decide

theorem witness_StatusAsDestination :
    w0.params.wf = true ∧ effCell 0x03#7 w0 = .status ∧ effCell 0x00#7 { w0 with fsr := 0x83#8 } = .status := by decide

/-- The map SRC-ONLY. -/
def srcOnly (s : State) : State := { s with params := { Config.defaultParams with fileMap := .srcOnly } }

/-- A map given as a table: the source's three points and FSR, STATUS in bank 1 too. -/
def tabled (s : State) : State :=
  { s with params := { Config.defaultParams with
      fileMap := .table [(0x03, .status), (0x04, .fsr), (0x05, .io .porta), (0x0F, .gpr 80), (0x83, .status)] } }

theorem witness_IndirectAccess :
    w0.params.fileMap = .ref84 ∧ fileCell 0x00#7 w0 = .indf ∧ ref84Cell w0.fsr = .indf ∧
    fileCell 0x00#7 { w0 with fsr := 0x8F#8 } = .indf ∧ ref84Cell 0x8F#8 ≠ .indf ∧
    (srcOnly w0).params.fileMap = .srcOnly := by decide

theorem witness_FileMapOfTable_1 :
    w0.params.fileMap = .ref84 ∧ (srcOnly w0).params.fileMap = .srcOnly ∧
    List.Nodup [0x03, 0x05, 0x0F, (0x02#8).toNat % 128, (0x0A#8).toNat % 128, (0x0B#8).toNat % 128, (0x81#8).toNat % 128] ∧
    fileCell 0x01#7 (srcOnly w0) = .optionReg ∧ fileCell 0x04#7 (srcOnly w0) = .unimplemented 0x04#8 := by decide

theorem witness_FileMapOfTable_2 :
    (tabled w0).params.wf = true ∧ (tabled w0).status.toNat < 32 ∧ fileCell 0x0F#7 (tabled w0) = .gpr 80 ∧
    lookupAt 0x83 [(0x03, Cell.status), (0x83, Cell.status)] = some .status ∧
    fileCell 0x03#7 (tabled { w0 with status := 0x3F#8 }) = .status ∧
    fileCell 0x04#7 (tabled { w0 with status := 0x3F#8 }) = .unimplemented 0x84#8 := by decide

theorem witness_ReadSeesLatestWrite :
    effCell 0x0F#7 { w0 with fsr := 0x8F#8 } = .gpr 3 ∧ effCell 0x00#7 { w0 with fsr := 0x8F#8 } = .gpr 3 ∧
    effCell 0x4F#7 w0 = .gpr 67 ∧ 3 ≠ 67 ∧ fileRead 0x0F#7 w0 = .ok (0xA5#8, w0) :=
  ⟨by decide, by decide, by decide, by decide, rfl⟩

theorem witness_StackDiscipline :
    (almostFull w0).stack.length < w0.params.stackDepth ∧ (full w0v).stack.length = w0v.params.stackDepth ∧
    (full w0v).params.treatment = .verdict ∧ (full w0).params.wf = true ∧
    (full w0).stack.length = w0.params.stackDepth ∧ (full w0).params.treatment = .hardware ∧
    (full w0).stack = 0x0001#13 :: List.replicate 7 0x0001#13 ∧ w0v.stack = [] ∧ w0.stack = [] := by decide

theorem witness_ComputedJump :
    fileCell 0x02#7 { w0 with pc := 0x00A5#13 } = .pcl ∧ w0.pclath.toNat = (0x00A5#13).toNat / 256 ∧
    (0x00A5#13).toNat % 256 + w0.w.toNat < 256 := by decide

/-- The case for every statement about an operand that can be read. -/
theorem witness_read : fileRead 0x0F#7 w0 = .ok (0xA5#8, w0) ∧ ∃ v, fileRead 0x4F#7 w0 = .ok (v, w0) := ⟨rfl, _, rfl⟩

theorem witness_AddwfSubwfResult : w0.params.wf = true ∧ fileRead 0x0F#7 w0 = .ok (0xA5#8, w0) := ⟨by decide, rfl⟩

theorem witness_LogicByteResult : w0.params.wf = true ∧ fileRead 0x0F#7 w0 = .ok (0xA5#8, w0) := ⟨by decide, rfl⟩

theorem witness_IncDecMoveResult : w0.params.wf = true ∧ fileRead 0x0F#7 w0 = .ok (0xA5#8, w0) := ⟨by decide, rfl⟩

theorem witness_RotateResult : w0.params.wf = true ∧ fileRead 0x0F#7 w0 = .ok (0xA5#8, w0) := ⟨by decide, rfl⟩

theorem witness_SwapClearStoreResult :
    w0.params.wf = true ∧ w0v.params.wf = true ∧ fileRead 0x0F#7 w0 = .ok (0xA5#8, w0) ∧ fileWritable 0x0C#7 w0v ∧
    fileWritable 0x07#7 w0 := by
  refine ⟨by decide, by decide, rfl, .inr fun a h => ?_, .inl rfl⟩
  rw [show effCell 0x0C#7 w0v = .gpr 0 from rfl] at h
  cases h

theorem witness_SkipCounterResult :
    w0.params.wf = true ∧ (¬(Dest.f = .f ∧ fileCell 0x0F#7 w0 = .pcl) ∧ fileRead 0x0F#7 w0 = .ok (0xA5#8, w0)) ∧
    (¬(Dest.w = .f ∧ fileCell 0x02#7 w0 = .pcl) ∧ fileRead 0x02#7 w0 = .ok (0x10#8, w0)) := by
  refine ⟨?_, ⟨?_, rfl⟩, ?_, rfl⟩ <;> decide

theorem witness_SkipCounterOnPcl :
    w0v.params.wf = true ∧ fileCell 0x02#7 w0v = .pcl ∧ w0v.params.treatment = .verdict ∧ w0.params.wf = true ∧
    fileCell 0x02#7 w0 = .pcl ∧ w0.params.treatment = .hardware := by decide

theorem witness_BitClearSetResult : fileRead 0x0F#7 w0 = .ok (0xA5#8, w0) := rfl

theorem witness_BitTestResult : fileRead 0x0F#7 w0 = .ok (0xA5#8, w0) := rfl

theorem witness_ReturnsResult :
    (full w0).stack = 0x0001#13 :: List.replicate 7 0x0001#13 ∧ (w0v.stack = [] ∧ w0v.params.treatment = .verdict) ∧
    (w0.stack = [] ∧ w0.params.treatment = .hardware) := by decide

theorem witness_CallGotoResult :
    (0x1FFF#13).toNat = (0x1F#5).toNat / 8 * 2048 + (0x7FF#11).toNat ∧ (almostFull w0).stack.length < w0.params.stackDepth ∧
    ((full w0v).stack.length = w0v.params.stackDepth ∧ (full w0v).params.treatment = .verdict) ∧
    ((full w0).params.wf = true ∧ (full w0).stack.length = w0.params.stackDepth ∧ (full w0).params.treatment = .hardware) := by decide

theorem witness_AddlwSublwResult : w0.params.wf = true := by decide

theorem witness_LogicLiteralResult : w0.params.wf = true := by decide

theorem witness_ControlResult : w0.params.wf = true := by decide

theorem witness_TrisResult : w0v.params.treatment = .verdict ∧ w0.params.treatment = .hardware := by decide

theorem witness_FrameOfByteToW : w0.params.wf = true ∧ ∃ t, exec (.addwf 0x0F#7 .w) w0 = .next t := ⟨by decide, _, rfl⟩

theorem witness_FrameOfFileWrites :
    w0.params.wf = true ∧ (∃ t, exec (.subwf 0x0F#7 .f) w0 = .next t) ∧ (∃ t, exec (.bcf 0x05#7 7#3) w0 = .next t) ∧
    effCell 0x0F#7 w0 ≠ .pcl := ⟨by decide, ⟨_, rfl⟩, ⟨_, rfl⟩, by decide⟩

theorem witness_FrameOfSkips :
    w0.params.wf = true ∧ (∃ t, exec (.decfsz 0x0F#7 .f) w0 = .next t) ∧ fileCell 0x0F#7 w0 ≠ .pcl ∧ effCell 0x0F#7 w0 ≠ .pcl ∧
    (∃ t, exec (.incfsz 0x02#7 .w) w0 = .next t) ∧ ∃ t, exec (.btfss 0x0F#7 7#3) w0 = .next t :=
  ⟨by decide, ⟨_, rfl⟩, by decide, by decide, ⟨_, rfl⟩, ⟨_, rfl⟩⟩

theorem witness_FrameOfLiterals :
    w0.params.wf = true ∧ (∃ t, exec (.sublw 0x02#8) w0 = .next t) ∧ ∃ t, exec .clrw w0 = .next t :=
  ⟨by decide, ⟨_, rfl⟩, ⟨_, rfl⟩⟩

theorem witness_FrameOfTransfers :
    (∃ t, exec (.goto 0x010#11) w0 = .next t) ∧ (∃ t, exec (.call 0x123#11) w0 = .next t) ∧
    (∃ t, exec .ret (full w0) = .next t) ∧ (∃ t, exec (.retlw 0x44#8) (full w0) = .next t) ∧
    (∃ t, exec .retfie (full w0) = .next t) ∧ (full w0).stack ≠ [] :=
  ⟨⟨_, rfl⟩, ⟨_, rfl⟩, ⟨_, rfl⟩, ⟨_, rfl⟩, ⟨_, rfl⟩, by decide⟩

theorem witness_FrameOfControls :
    (∃ t, exec .clrwdt w0 = .next t) ∧ (∃ t, exec .sleep w0 = .next t) ∧ (∃ t, exec .option w0 = .next t) ∧
    (∃ t, exec .nop w0 = .next t) ∧ ∃ t, exec (.tris 5#3) w0 = .next t :=
  ⟨⟨_, rfl⟩, ⟨_, rfl⟩, ⟨_, rfl⟩, ⟨_, rfl⟩, ⟨_, rfl⟩⟩

theorem witness_FlagTableHolds :
    w0.params.wf = true ∧ (∃ t, exec (.movwf 0x0F#7) w0 = .next t) ∧ ¬WritesCell (.movwf 0x0F#7) .status w0 ∧
    ¬writesC (.movwf 0x0F#7) ∧ ¬writesDC (.movwf 0x0F#7) ∧ ¬writesZ w0.params (.movwf 0x0F#7) := by
  refine ⟨by decide, ⟨_, rfl⟩, ?_, fun h => h, fun h => h, fun h => h⟩
  rintro ⟨f, hf, hc⟩
  cases hf
  rw [show effCell 0x0F#7 w0 = .gpr 3 from rfl] at hc
  cases hc

theorem witness_ToPdOnlyByClrwdtSleep :
    w0.params.wf = true ∧ (∃ t, exec (.movwf 0x03#7) w0 = .next t) ∧ Instr.movwf 0x03#7 ≠ .clrwdt ∧
    Instr.movwf 0x03#7 ≠ .sleep :=
  ⟨by decide, ⟨_, rfl⟩, by decide, by decide⟩

theorem witness_HiddenStateChangesByName :
    (∃ t, exec (.call 0x123#11) w0 = .next t ∧ t.stack ≠ w0.stack) ∧
    (∃ t, exec .sleep { w0 with wdt := 1 } = .next t ∧ t.asleep ≠ w0.asleep ∧ t.wdt ≠ 1) ∧
    (∃ t, exec (.movlw 0xA8#8) w0 = .next t ∧ t.w ≠ w0.w) ∧ ∃ t, exec (.addwf 0x0F#7 .w) w0 = .next t ∧ t.w ≠ w0.w :=
  ⟨⟨_, rfl, by decide⟩, ⟨_, rfl, by decide, by decide⟩, ⟨_, rfl, by decide⟩, _, rfl, by decide⟩

theorem witness_SpecialRegistersChangeByName :
    (∃ t, exec .nop w0 = .next t) ∧ (∀ c, ¬WritesCell .nop c w0) ∧ Instr.nop ≠ .retfie ∧ Instr.nop ≠ .option := by
  refine ⟨⟨_, rfl⟩, ?_, by decide, by decide⟩
  rintro c ⟨f, hf, _⟩
  cases hf

theorem witness_ProgramMemoryConstant : ∃ t, Host.Core.run core 2 (withProg 0x0000#14 w0) = .next t := ⟨_, rfl⟩

theorem witness_IoRecordInvisible :
    SameButLog w0 { w0 with ioLog := [.write .porta 0x55#8] } ∧ (∃ t, step w0 = .next t) ∧
    ∃ e, step { w0 with pc := 0x0400#13 } = .fault e := ⟨rfl, ⟨_, rfl⟩, ⟨_, rfl⟩⟩

/-- A state with GIE = 1 and a request of timer 0, by REF84's formula, in the treatment of `s`. -/
def pending (s : State) : State :=
  withProg 0x0000#14 { s with intcon := 0xA4#8, params := { s.params with irqSource := .ref84 } }

/-- An input that raises T0IF and INTF together and sets EEIF. -/
def busyInput : PlatformInput :=
  { PlatformInput.quiet with timer0Overflow := true, externalInterrupt := true, eeif := some true }

/-- `s` with that input listed first. -/
def busy (s : State) : State := { s with inputs := [busyInput, .quiet] }

/-- `s` with it taken. -/
def busyTaken (s : State) : State := { s with inputs := [.quiet], intcon := s.intcon ||| 0x06#8, eeif := true }

/-- Taking it sets bits 2 and 1 of INTCON and EEIF. -/
theorem busy_took : Took busyInput [.quiet] (busy { w0 with intcon := 0x20#8, params := wired })
    (busyTaken { w0 with intcon := 0x20#8, params := wired }) := ⟨rfl, rfl⟩

theorem witness_InterruptEntryStep_1 :
    Arrived (pending (almostFull w0)) (pending (almostFull w0)) ∧ (pending (almostFull w0)).asleep = false ∧
    flagGIE (pending (almostFull w0)) = true ∧ irq (pending (almostFull w0)) = true ∧
    (pending (almostFull w0)).params.intVector.toNat < (pending (almostFull w0)).params.progWords ∧
    (pending (almostFull w0)).stack.length < (pending (almostFull w0)).params.stackDepth ∧
    decode (progRead 0x0004#13 (pending (almostFull w0))) = some .nop :=
  ⟨.inl ⟨rfl, rfl⟩, by decide⟩

theorem witness_InterruptEntryStep_2 :
    Arrived (pending (full w0v)) (pending (full w0v)) ∧ (pending (full w0v)).asleep = false ∧
    flagGIE (pending (full w0v)) = true ∧ irq (pending (full w0v)) = true ∧
    (pending (full w0v)).stack.length = (pending (full w0v)).params.stackDepth ∧
    (pending (full w0v)).params.treatment = .verdict :=
  ⟨.inl ⟨rfl, rfl⟩, by decide⟩

theorem witness_InterruptEntryStep_3 :
    Arrived (pending (full w0)) (pending (full w0)) ∧ (pending (full w0)).asleep = false ∧
    flagGIE (pending (full w0)) = true ∧ irq (pending (full w0)) = true ∧
    (pending (full w0)).params.intVector.toNat < (pending (full w0)).params.progWords ∧
    (pending (full w0)).params.wf = true ∧
    (pending (full w0)).stack.length = (pending (full w0)).params.stackDepth ∧
    (pending (full w0)).params.treatment = .hardware ∧
    decode (progRead 0x0004#13 (pending (full w0))) = some .nop :=
  ⟨.inl ⟨rfl, rfl⟩, by decide⟩

theorem witness_InterruptEntryStep_4 :
    Arrived (requested false) (requested false) ∧ (requested false).asleep = false ∧
    flagGIE (requested false) = false ∧ irq (requested false) = true ∧
    (requested false).pc.toNat < (requested false).params.progWords ∧
    decode (progRead 0x0012#13 (requested false)) = some (.addlw 0xFF#8) :=
  ⟨.inl ⟨rfl, rfl⟩, by decide⟩

theorem witness_InterruptRequestFormula :
    Arrived (busy { w0 with intcon := 0x20#8, params := wired }) (busyTaken { w0 with intcon := 0x20#8, params := wired }) ∧
    w0.params.irqSource = .never ∧ wired.irqSource = .ref84 ∧ { wired with irqSource := .line }.irqSource = .line :=
  ⟨.inr ⟨_, _, busy_took, rfl⟩, by decide⟩

theorem witness_InterruptRoundTrip :
    (almostFull w0).stack.length < w0.params.stackDepth ∧
    ∃ s1, interruptEntry (almostFull w0) = .ok s1 ∧ ∃ h : State, h.stack = s1.stack :=
  ⟨by decide, _, rfl, _, rfl⟩

theorem witness_SleepHolds :
    (({ w0 with asleep := true } : State).asleep = true ∧ ({ w0 with asleep := true } : State).inputs = [] ∧
      irq { w0 with asleep := true } = false) ∧
    Arrived (busy { w0 with asleep := true, intcon := 0x00#8, params := wired })
      (busyTaken { w0 with asleep := true, intcon := 0x00#8, params := wired }) ∧
    irq (busyTaken { w0 with asleep := true, intcon := 0x00#8, params := wired }) = false :=
  ⟨by decide, .inr ⟨_, _, ⟨rfl, rfl⟩, rfl⟩, by decide⟩

theorem witness_WakeByInterrupt_1 :
    Arrived { requested false with asleep := true, pc := 0x03FF#13 } { requested false with asleep := true, pc := 0x03FF#13 } ∧
    irq { requested false with asleep := true, pc := 0x03FF#13 } = true ∧ (0x03FF#13).toNat < wired.progWords ∧
    decode (progRead 0x03FF#13 { requested false with asleep := true, pc := 0x03FF#13 }) = some (.addlw 0xFF#8) :=
  ⟨.inl ⟨rfl, rfl⟩, by decide⟩

theorem witness_WakeByInterrupt_2 :
    Took { busyInput with portBChange := true } [] { w0 with intcon := 0x78#8, params := wired, inputs := [{ busyInput with portBChange := true }] }
      { w0 with intcon := 0x7F#8, params := wired, eeif := true } ∧
    wired.irqSource = .ref84 ∧ wired.intconGIE = 7 ∧ (0x78#8 : Byte).getLsbD 5 = true ∧ (0x78#8 : Byte).getLsbD 4 = true ∧
    (0x78#8 : Byte).getLsbD 3 = true ∧ (0x78#8 : Byte).getLsbD 6 = true :=
  ⟨⟨rfl, rfl⟩, by decide⟩

/-- A boundary with the event `e`, and nothing else. -/
def only (e : PlatformEvent) : PlatformInput := { PlatformInput.quiet with event := some e }

/-- The watchdog as given, a time-out due. -/
def timeout (enabled : Bool) : State :=
  { w0 with inputs := [only .watchdogTimeout], params := { Config.defaultParams with wdtEnabled := enabled } }

theorem witness_WatchdogTimeout_1 :
    Took (only .watchdogTimeout) [] (timeout true) { timeout true with inputs := [] } ∧
    (timeout true).params.wf = true ∧ (timeout true).params.wdtEnabled = true ∧ (timeout true).asleep = false :=
  ⟨⟨rfl, rfl⟩, by decide⟩

theorem witness_WatchdogTimeout_2 :
    Took (only .watchdogTimeout) [] { timeout true with asleep := true } { timeout true with asleep := true, inputs := [] } ∧
    ({ timeout true with asleep := true } : State).asleep = true ∧
    (timeout true).pc.toNat < (timeout true).params.progWords ∧
    decode (progRead (timeout true).pc (timeout true)) = some (.addlw 0xFF#8) :=
  ⟨⟨rfl, rfl⟩, by decide⟩

theorem witness_WatchdogTimeout_3 :
    Took (only .watchdogTimeout) [] (timeout false) { timeout false with inputs := [] } ∧
    (timeout false).params.wdtEnabled = false :=
  ⟨⟨rfl, rfl⟩, rfl⟩

theorem witness_ResetEvents :
    Took (only .powerOnReset) [] { w0 with inputs := [only .powerOnReset] } w0 ∧
    Took (only .externalReset) [] { w0 with inputs := [only .externalReset] } w0 ∧ w0.params.wf = true :=
  ⟨⟨rfl, rfl⟩, ⟨rfl, rfl⟩, by decide⟩

theorem witness_NineRotationsRestore :
    effCell 0x0F#7 w0 = .gpr 3 ∧ w0.ram.wf w0.params.fileMap.ramCells = true ∧ w0.ram.load 3 = some 0xA5#8 := by decide

theorem witness_TwoSwapsRestore :
    effCell 0x0F#7 w0 = .gpr 3 ∧ w0.ram.wf w0.params.fileMap.ramCells = true ∧ w0.ram.load 3 = some 0xA5#8 := by decide

theorem witness_CallReturnRoundTrip :
    (almostFull w0).stack.length < w0.params.stackDepth ∧
    ∃ t, exec (.call 0x7FF#11) (almostFull w0) = .next t ∧ ∃ u : State, u.stack = t.stack :=
  ⟨by decide, _, rfl, _, rfl⟩

theorem witness_EndedRunStays :
    runEnded (withProg 0x2810#14 w0) = true ∧ (withProg 0x2810#14 w0).inputs = [] := by decide

theorem witness_CycleCounts :
    fileRead 0x0F#7 w0 = .ok (0xA5#8, w0) ∧ (∃ t, exec (.btfsc 0x0F#7 1#3) w0 = .next t) ∧
    (∃ t, exec (.btfss 0x0F#7 1#3) w0 = .next t) ∧ effCell 0x0F#7 w0 ≠ .pcl ∧
    (∃ t, exec (.decfsz 0x0F#7 .f) w0 = .next t) ∧ (∃ t, exec (.incfsz 0x0F#7 .f) w0 = .next t) ∧
    effCell 0x02#7 w0 = .pcl :=
  ⟨rfl, ⟨_, rfl⟩, ⟨_, rfl⟩, by decide, ⟨_, rfl⟩, ⟨_, rfl⟩, by decide⟩

end Sys2Proof.Tests
end

/-! SUPPORT. What an instruction that answers can have done (`Effect`), said once for all 37 instructions; the frames and
the rules over all instructions are case analyses of it. -/

namespace Sys2Proof.Machine

open Sys2Proof.Claims

/-! ### The flags an instruction lists -/

/-- The flags computed are among those that `i` lists (spec/10_state.md R29). -/
def ListedFlags (p : Params) (i : Instr) (fl : FlagWrites) : Prop :=
  (¬writesC i → fl.c = none) ∧ (¬writesDC i → fl.dc = none) ∧ (¬writesZ p i → fl.z = none)

theorem listedFlags_noFlags (p : Params) (i : Instr) : ListedFlags p i noFlags :=
  ⟨fun _ => rfl, fun _ => rfl, fun _ => rfl⟩

theorem listedFlags_zFlag {p : Params} {i : Instr} (hz : writesZ p i) (r : Byte) : ListedFlags p i (zFlag r) :=
  ⟨fun _ => rfl, fun _ => rfl, fun h => absurd hz h⟩

theorem listedFlags_cFlag {p : Params} {i : Instr} (hc : writesC i) (b : Bool) : ListedFlags p i (cFlag b) :=
  ⟨fun h => absurd hc h, fun _ => rfl, fun _ => rfl⟩

theorem listedFlags_aluFlags {p : Params} {i : Instr} (hc : writesC i) (hdc : writesDC i) (hz : writesZ p i)
    (a : AluResult) : ListedFlags p i (aluFlags a) :=
  ⟨fun h => absurd hc h, fun h => absurd hdc h, fun h => absurd hz h⟩

/-- INCFSZ lists Z by its parameter (R119). -/
theorem listedFlags_incfsz (p : Params) (f : FileAddr) (d : Dest) (r : Byte) :
    ListedFlags p (.incfsz f d) (if p.incfszWritesZ then zFlag r else noFlags) := by
  split
  · next h => exact listedFlags_zFlag (i := .incfsz f d) h r
  · exact listedFlags_noFlags p _

/-! ### The three shapes of an access to the file registers -/

/-- `s1` is what a read through `f` leaves of `s`: a platform cell records it (R36). -/
def ReadThrough (f : FileAddr) (s s1 : State) : Prop :=
  s1 = s ∨ ∃ name, effCell f s = .io name ∧ s1 = (ioRead name s).2

/-- `s1` is `s`, or what the read of the operand of `i` leaves. -/
def ReadOperand (i : Instr) (s s1 : State) : Prop := s1 = s ∨ ∃ f, fileSource i = some f ∧ ReadThrough f s s1

/-- `i` wrote the file register `f`, after it may have read it, and then the flags it lists. -/
inductive WroteFile (i : Instr) (f : FileAddr) (s : State) : State → Prop where
  | mk {fl : FlagWrites} {s1 : State} (listed : ListedFlags s.params i fl) (read : ReadThrough f s s1) (r : Byte) :
      WroteFile i f s (applyFlags fl (cellWritten fl (effCell f s) r s1))

/-- `i` wrote W, after it may have read its operand, and then the flags it lists. -/
inductive LoadedW (i : Instr) (s : State) : State → Prop where
  | mk {fl : FlagWrites} {s1 : State} (listed : ListedFlags s.params i fl) (read : ReadOperand i s s1) (r : Byte) :
      LoadedW i s (applyFlags fl { s1 with w := r })

/-- The instructions that may skip the next one (R117, R119, R143, R144). -/
def canSkip : Instr → Bool
  | .decfsz _ _ | .incfsz _ _ | .btfsc _ _ | .btfss _ _ => true
  | _ => false

/-- `Effect i s t`: what `i` can have done from `s` where it answers `t`. -/
inductive Effect : Instr → State → State → Prop where
  /-- the destination is the file register -/
  | wrote {i f s t} (dest : fileDest i = some f) (h : WroteFile i f s t) : Effect i s t
  /-- the destination is W, of a literal instruction and CLRW too -/
  | loaded {i s t} (dest : fileDest i = none) (w : writesW i) (h : LoadedW i s t) : Effect i s t
  /-- nothing is written: BTFSC, BTFSS, NOP -/
  | tested {i s t} (dest : fileDest i = none) (w : ¬writesW i) (read : ReadOperand i s t) : Effect i s t
  /-- the skip, after what the instruction did else -/
  | skipped {i s t} (can : canSkip i = true) (h : Effect i s t) : Effect i s (skip t)
  /-- DECFSZ and INCFSZ that name PCL as destination, in the treatment `hardware` -/
  | contested {i f s fl} (can : canSkip i = true) (dest : fileDest i = some f) (cell : fileCell f s = .pcl)
      (listed : ListedFlags s.params i fl) (a : Addr13) :
      Effect i s { applyFlags fl s with pc := a, draws := s.draws + 1 }
  | ret {s t} (h : popPc s = .ok t) : Effect .ret s t
  | retlw {s t k} (h : popPc { s with w := k } = .ok t) : Effect (.retlw k) s t
  | retfie {s t} (h : popPc s = .ok t) : Effect .retfie s (setGie true t)
  | call {s t k} (h : push s.pc s = .ok t) (a : Addr13) : Effect (.call k) s { t with pc := a }
  | goto {s k} (a : Addr13) : Effect (.goto k) s { s with pc := a }
  | clrwdt {s} : Effect .clrwdt s (setToPd true true { s with wdt := 0, wdtPrescaler := 0 })
  | option {s} : Effect .option s { s with option := s.w }
  | sleep {s} : Effect .sleep s { setToPd true false { s with wdt := 0, wdtPrescaler := 0 } with asleep := true }
  | tris {s f} (name : IoName) (v : Byte) : Effect (.tris f) s (ioWrite name v s)

/-! ### Every instruction has such an effect -/

theorem readThrough_of_fileRead {f : FileAddr} {s s1 : State} {v : Byte} (h : fileRead f s = .ok (v, s1)) :
    ReadThrough f s s1 := readCell_state h

/-- `d` is the destination of `i`, whose operand is `f` (R85). -/
def WritesTo (i : Instr) (f : FileAddr) (d : Dest) : Prop :=
  match d with
  | .w => fileDest i = none ∧ writesW i
  | .f => fileDest i = some f

/-- A written destination is W, or the file register in the state the read left. -/
theorem effect_of_writeDest {i : Instr} {f : FileAddr} {d : Dest} {fl : FlagWrites} {r : Byte} {s s1 s2 : State}
    (hs : fileSource i = some f) (hto : WritesTo i f d)
    (hl : ListedFlags s.params i fl) {v : Byte} (hr : fileRead f s = .ok (v, s1)) (hd : writeDest fl d f r s1 = .ok s2) :
    Effect i s (applyFlags fl s2) := by
  have hread := readThrough_of_fileRead hr
  cases d with
  | w =>
    cases hd
    obtain ⟨hnone, hwrites⟩ := hto
    exact .loaded hnone hwrites (.mk hl (.inr ⟨f, hs, hread⟩) r)
  | f =>
    simp only [writeDest, fileWrite, effCell_after_read hr] at hd
    rw [writeCell_eq hd]
    exact .wrote hto (.mk hl hread r)

theorem effect_of_byteOp {i : Instr} {f : FileAddr} {d : Dest} {op : Byte → Byte → Bool → Byte × FlagWrites} {s t : State}
    (hs : fileSource i = some f) (hto : WritesTo i f d)
    (hl : ∀ v w c, ListedFlags s.params i (op v w c).2) (h : byteOp f d op s = .ok t) : Effect i s t := by
  obtain ⟨v, s1, s2, hr, hd, rfl⟩ := byteOp_ok h
  exact effect_of_writeDest hs hto (hl ..) hr hd

theorem effect_of_skipOp {i : Instr} {f : FileAddr} {d : Dest} {op : Byte → Byte × FlagWrites} {s t : State}
    (hs : fileSource i = some f) (hto : WritesTo i f d)
    (hc : canSkip i = true) (hl : ∀ v, ListedFlags s.params i (op v).2) (h : skipOp f d op s = .ok t) : Effect i s t := by
  rcases skipOp_ok h with ⟨⟨hd, hpcl⟩, hpc⟩ | ⟨_, v, s1, s2, hr, hd, rfl⟩
  · simp only [contestedPcWrite] at hpc
    split at hpc <;> cases hpc
    subst hd
    exact .contested hc hto hpcl (hl _) _
  · have he := effect_of_writeDest hs hto (hl v) hr hd
    split
    · exact .skipped hc he
    · exact he

theorem effect_of_bitOp {i : Instr} {f : FileAddr} {op : Byte → Byte} {s t : State} (hf : fileDest i = some f)
    (h : bitOp f op s = .ok t) : Effect i s t := by
  obtain ⟨v, s1, hr, hw⟩ := bitOp_ok h
  simp only [fileWrite, effCell_after_read hr] at hw
  rw [writeCell_eq hw]
  exact .wrote hf (.mk (listedFlags_noFlags _ i) (readThrough_of_fileRead hr) (op v))

theorem effect_of_testOp {i : Instr} {f : FileAddr} {b : BitPos} {x : Bool} {s t : State} (hs : fileSource i = some f)
    (hf : fileDest i = none) (hw : ¬writesW i) (hc : canSkip i = true) (h : testOp f b x s = .ok t) : Effect i s t := by
  obtain ⟨v, s1, hr, rfl⟩ := testOp_ok h
  have he : Effect i s s1 := .tested hf hw (.inr ⟨f, hs, readThrough_of_fileRead hr⟩)
  split
  · exact .skipped hc he
  · exact he

/-- CLRF and MOVWF write without a read (R66). -/
theorem effect_of_fileWrite {i : Instr} {f : FileAddr} {fl : FlagWrites} {r : Byte} {s t : State}
    (hf : fileDest i = some f) (hl : ListedFlags s.params i fl) (h : fileWrite fl f r s = .ok t) :
    Effect i s (applyFlags fl t) := by
  rw [writeCell_eq h]
  exact .wrote hf (.mk hl (.inl rfl) r)

theorem effect_of_writeW {i : Instr} {fl : FlagWrites} {r : Byte} {s : State} (hf : fileDest i = none) (hw : writesW i)
    (hl : ListedFlags s.params i fl) : Effect i s (writeW r fl s) := .loaded hf hw (.mk hl (.inl rfl) r)

/-- An instruction that answers has one of the effects, whatever it is. -/
theorem exec_effect {i : Instr} {s t : State} (h : exec i s = .next t) : Effect i s t := by
  cases i with
  | addwf f d | subwf f d =>
    exact effect_of_byteOp rfl (by cases d <;> trivial)
      (fun _ _ _ => listedFlags_aluFlags (by trivial) (by trivial) (by trivial) _) (toOutcome_next h)
  | andwf f d | comf f d | decf f d | incf f d | iorwf f d | movf f d | xorwf f d =>
    exact effect_of_byteOp rfl (by cases d <;> trivial)
      (fun _ _ _ => listedFlags_zFlag (by trivial) _) (toOutcome_next h)
  | rlf f d | rrf f d =>
    exact effect_of_byteOp rfl (by cases d <;> trivial)
      (fun _ _ _ => listedFlags_cFlag (by trivial) _) (toOutcome_next h)
  | swapf f d =>
    exact effect_of_byteOp rfl (by cases d <;> trivial)
      (fun _ _ _ => listedFlags_noFlags _ _) (toOutcome_next h)
  | decfsz f d =>
    exact effect_of_skipOp rfl (by cases d <;> trivial) rfl
      (fun _ => listedFlags_noFlags _ _) (toOutcome_next h)
  | incfsz f d =>
    exact effect_of_skipOp rfl (by cases d <;> trivial) rfl
      (fun _ => listedFlags_incfsz _ f d _) (toOutcome_next h)
  | bcf f b | bsf f b => exact effect_of_bitOp rfl (toOutcome_next h)
  | btfsc f b | btfss f b => exact effect_of_testOp rfl rfl id rfl (toOutcome_next h)
  | clrf f =>
    obtain ⟨s1, hw, rfl⟩ := writeResult_ok (toOutcome_next h)
    exact effect_of_fileWrite rfl (listedFlags_zFlag (by trivial) _) hw
  | movwf f => exact effect_of_fileWrite rfl (listedFlags_noFlags _ _) (toOutcome_next h)
  | addlw k | sublw k =>
    cases h
    exact effect_of_writeW rfl trivial (listedFlags_aluFlags (by trivial) (by trivial) (by trivial) _)
  | andlw k | iorlw k | xorlw k | clrw =>
    cases h
    exact effect_of_writeW rfl trivial (listedFlags_zFlag (by trivial) _)
  | movlw k =>
    cases h
    exact effect_of_writeW rfl trivial (listedFlags_noFlags _ _)
  | nop => cases h; exact .tested rfl id (.inl rfl)
  | ret => exact .ret (toOutcome_next h)
  | retlw k => exact .retlw (toOutcome_next h)
  | retfie =>
    obtain ⟨s1, hp, rfl⟩ := interruptReturn_ok (toOutcome_next h)
    exact .retfie hp
  | call k =>
    simp only [exec, execCall] at h
    split at h <;> cases h
    next hp => exact .call hp _
  | goto k => cases h; exact .goto _
  | clrwdt => cases h; exact .clrwdt
  | option => cases h; exact .option
  | sleep => cases h; exact .sleep
  | tris f =>
    simp only [exec, execTris] at h
    split at h <;> cases h
    exact .tris _ _

end Sys2Proof.Machine

/-! SUPPORT. What a read, a file write and a write of W leave as it was: the frames of the three shapes. -/

namespace Sys2Proof.Machine

open Sys2Proof.Claims

/-! ### What a read leaves -/

/-- A read changes the record and the draw counter alone. -/
theorem readThrough_eq {f : FileAddr} {s s1 : State} (h : ReadThrough f s s1) :
    ∃ n log, s1 = { s with draws := n, ioLog := log } := by
  rcases h with rfl | ⟨name, _, rfl⟩
  · exact ⟨_, _, rfl⟩
  · exact ⟨_, _, rfl⟩

theorem readOperand_eq {i : Instr} {s s1 : State} (h : ReadOperand i s s1) :
    ∃ n log, s1 = { s with draws := n, ioLog := log } := by
  rcases h with rfl | ⟨f, _, hr⟩
  · exact ⟨_, _, rfl⟩
  · exact readThrough_eq hr

/-- A read that reaches no platform cell changes nothing. -/
theorem readThrough_eq_self {f : FileAddr} {s s1 : State} (h : ReadThrough f s s1) (hc : ∀ name, effCell f s ≠ .io name) :
    s1 = s := by
  rcases h with rfl | ⟨name, hn, _⟩
  · rfl
  · exact absurd hn (hc name)

/-- `ReadOperand` of an instruction with the operand `f` is a read through `f`. -/
theorem readThrough_of_operand {i : Instr} {f : FileAddr} {s s1 : State} (h : ReadOperand i s s1)
    (hs : fileSource i = some f) : ReadThrough f s s1 := by
  rcases h with rfl | ⟨g, hg, hr⟩
  · exact .inl rfl
  · cases hs.symm.trans hg
    exact hr

/-! ### What a write of a cell leaves, place by place (R37) -/

theorem cellWritten_sameOutsideFile (fl : FlagWrites) (c : Cell) (v : Byte) (s : State) :
    SameOutsideFile s (cellWritten fl c v s) := by
  cases c with
  | _ => exact ⟨rfl, rfl, rfl, rfl, rfl, rfl, rfl, rfl, rfl⟩

@[simp] theorem cellWritten_params (fl : FlagWrites) (c : Cell) (v : Byte) (s : State) :
    (cellWritten fl c v s).params = s.params := by
  cases c with
  | _ => rfl

theorem cellWritten_w (fl : FlagWrites) (c : Cell) (v : Byte) (s : State) : (cellWritten fl c v s).w = s.w := by
  cases c with
  | _ => rfl

theorem cellWritten_draws (fl : FlagWrites) (c : Cell) (v : Byte) (s : State) :
    (cellWritten fl c v s).draws = s.draws := by
  cases c with
  | _ => rfl

theorem cellWritten_pc (fl : FlagWrites) {c : Cell} (h : c ≠ .pcl) (v : Byte) (s : State) :
    (cellWritten fl c v s).pc = s.pc := by
  cases c with
  | pcl => exact absurd rfl h
  | _ => rfl

theorem cellWritten_status (fl : FlagWrites) {c : Cell} (h : c ≠ .status) (v : Byte) (s : State) :
    (cellWritten fl c v s).status = s.status := by
  cases c with
  | status => exact absurd rfl h
  | _ => rfl

theorem cellWritten_pclath (fl : FlagWrites) {c : Cell} (h : c ≠ .pclath) (v : Byte) (s : State) :
    (cellWritten fl c v s).pclath = s.pclath := by
  cases c with
  | pclath => exact absurd rfl h
  | _ => rfl

theorem cellWritten_intcon (fl : FlagWrites) {c : Cell} (h : c ≠ .intcon) (v : Byte) (s : State) :
    (cellWritten fl c v s).intcon = s.intcon := by
  cases c with
  | intcon => exact absurd rfl h
  | _ => rfl

theorem cellWritten_option (fl : FlagWrites) {c : Cell} (h : c ≠ .optionReg) (v : Byte) (s : State) :
    (cellWritten fl c v s).option = s.option := by
  cases c with
  | optionReg => exact absurd rfl h
  | _ => rfl

theorem cellWritten_fsr (fl : FlagWrites) {c : Cell} (h : c ≠ .fsr) (v : Byte) (s : State) :
    (cellWritten fl c v s).fsr = s.fsr := by
  cases c with
  | fsr => exact absurd rfl h
  | _ => rfl

theorem cellWritten_ram_load (fl : FlagWrites) {c : Cell} {n : Nat} (h : c ≠ .gpr n) (v : Byte) (s : State) :
    (cellWritten fl c v s).ram.load n = s.ram.load n := by
  cases c with
  | gpr k => exact Memory.load_store_ne (fun hk => h (by rw [hk])) s.ram v
  | _ => rfl

theorem cellWritten_io (fl : FlagWrites) {c : Cell} (h : ∀ name, c ≠ .io name) (v : Byte) (s : State) :
    (cellWritten fl c v s).ioLog = s.ioLog ∧ (cellWritten fl c v s).ioLevels = s.ioLevels := by
  cases c with
  | io name => exact absurd rfl (h name)
  | _ => exact ⟨rfl, rfl⟩

theorem cellWritten_ioLevels_load (fl : FlagWrites) {c : Cell} {name : IoName} (h : c ≠ .io name) (v : Byte) (s : State) :
    (cellWritten fl c v s).ioLevels.load (ioNumber name) = s.ioLevels.load (ioNumber name) := by
  cases c with
  | io other =>
    have hne : name ≠ other := fun hn => h (by rw [hn])
    simp only [cellWritten, ioWrite_ioLevels, ioLevelsAfter_load, hne, and_false, if_false]
  | _ => rfl

/-- A file write never changes TO and PD, not even one to STATUS (R38). -/
theorem cellWritten_toPd (fl : FlagWrites) (c : Cell) (v : Byte) (s : State) :
    flagTO (cellWritten fl c v s) = flagTO s ∧ flagPD (cellWritten fl c v s) = flagPD s := by
  cases c with
  | status => exact statusWrite_toPd fl v s
  | _ => exact ⟨rfl, rfl⟩

/-! ### The flags after an instruction (R29) -/

/-- Flags that `i` lists, written over a STATUS as before, leave every other bit as before. -/
theorem applyFlags_otherStatusBits {i : Instr} {fl : FlagWrites} {s s1 : State} (hwf : s.params.wf = true)
    (hl : ListedFlags s.params i fl) (hst : s1.status = s.status) (hp : s1.params = s.params) :
    OtherStatusBits i s (applyFlags fl s1) := by
  have hwf1 : s1.params.wf = true := by rw [hp]; exact hwf
  obtain ⟨hc, hdc, hz⟩ := hl
  obtain ⟨hC, hDC, hZ, _, _⟩ := applyFlags_flags fl hwf1
  refine ⟨fun h => ?_, fun h => ?_, fun h => ?_, fun j h1 h2 h3 => ?_⟩
  · rw [hC, hc h]; simp only [Option.getD_none, flagC, hst, hp]
  · rw [hDC, hdc h]; simp only [Option.getD_none, flagDC, hst, hp]
  · rw [hZ, hz h]; simp only [Option.getD_none, flagZ, hst, hp]
  · rw [applyFlags_bit fl hwf1, hp, if_neg h1, if_neg h2, if_neg h3, hst]

/-- A state with the same STATUS has the same flags. -/
theorem otherStatusBits_of_same (i : Instr) {s t : State} (hst : t.status = s.status) (hp : t.params = s.params) :
    OtherStatusBits i s t := by
  simp only [OtherStatusBits, SameButFlags, flagC, flagDC, flagZ, hst, hp, implies_true, and_self]

theorem applyFlags_toPd (fl : FlagWrites) {s : State} (hwf : s.params.wf = true) :
    flagTO (applyFlags fl s) = flagTO s ∧ flagPD (applyFlags fl s) = flagPD s := by
  obtain ⟨_, _, _, hPD, hTO⟩ := applyFlags_flags fl hwf
  exact ⟨hTO, hPD⟩

/-! ### The frames of the shapes -/

section

variable {i : Instr} {f : FileAddr} {s t : State}

/-- The write, with the state that the read left spelled out. -/
theorem WroteFile.exists_write (h : WroteFile i f s t) :
    ∃ fl r n log, ListedFlags s.params i fl ∧
      t = applyFlags fl (cellWritten fl (effCell f s) r { s with draws := n, ioLog := log }) := by
  obtain @⟨fl, s1, hl, hr, r⟩ := h
  obtain ⟨n, log, rfl⟩ := readThrough_eq hr
  exact ⟨fl, r, n, log, hl, rfl⟩

theorem WroteFile.sameOutsideFile (h : WroteFile i f s t) : SameOutsideFile s t := by
  obtain ⟨fl, r, n, log, _, rfl⟩ := h.exists_write
  exact cellWritten_sameOutsideFile fl (effCell f s) r _

theorem WroteFile.w_eq (h : WroteFile i f s t) : t.w = s.w := by
  obtain ⟨fl, r, n, log, _, rfl⟩ := h.exists_write
  exact cellWritten_w fl (effCell f s) r _

theorem WroteFile.pc_eq (h : WroteFile i f s t) (hc : effCell f s ≠ .pcl) : t.pc = s.pc := by
  obtain ⟨fl, r, n, log, _, rfl⟩ := h.exists_write
  exact cellWritten_pc fl hc r _

theorem WroteFile.pclath_eq (h : WroteFile i f s t) (hc : effCell f s ≠ .pclath) : t.pclath = s.pclath := by
  obtain ⟨fl, r, n, log, _, rfl⟩ := h.exists_write
  exact cellWritten_pclath fl hc r _

theorem WroteFile.intcon_eq (h : WroteFile i f s t) (hc : effCell f s ≠ .intcon) : t.intcon = s.intcon := by
  obtain ⟨fl, r, n, log, _, rfl⟩ := h.exists_write
  exact cellWritten_intcon fl hc r _

theorem WroteFile.option_eq (h : WroteFile i f s t) (hc : effCell f s ≠ .optionReg) : t.option = s.option := by
  obtain ⟨fl, r, n, log, _, rfl⟩ := h.exists_write
  exact cellWritten_option fl hc r _

theorem WroteFile.fsr_eq (h : WroteFile i f s t) (hc : effCell f s ≠ .fsr) : t.fsr = s.fsr := by
  obtain ⟨fl, r, n, log, _, rfl⟩ := h.exists_write
  exact cellWritten_fsr fl hc r _

theorem WroteFile.ram_load_eq (h : WroteFile i f s t) {n : Nat} (hc : effCell f s ≠ .gpr n) :
    t.ram.load n = s.ram.load n := by
  obtain ⟨fl, r, n, log, _, rfl⟩ := h.exists_write
  exact cellWritten_ram_load fl hc r _

theorem WroteFile.otherStatusBits (h : WroteFile i f s t) (hwf : s.params.wf = true) (hc : effCell f s ≠ .status) :
    OtherStatusBits i s t := by
  obtain ⟨fl, r, n, log, hl, rfl⟩ := h.exists_write
  exact applyFlags_otherStatusBits hwf hl (cellWritten_status fl hc r _) (cellWritten_params fl _ r _)

theorem WroteFile.toPd (h : WroteFile i f s t) (hwf : s.params.wf = true) : flagTO t = flagTO s ∧ flagPD t = flagPD s := by
  obtain ⟨fl, r, n, log, _, rfl⟩ := h.exists_write
  obtain ⟨hTO, hPD⟩ := cellWritten_toPd fl (effCell f s) r { s with draws := n, ioLog := log }
  obtain ⟨hTO', hPD'⟩ := applyFlags_toPd fl (s := cellWritten fl (effCell f s) r { s with draws := n, ioLog := log })
    (by rw [cellWritten_params]; exact hwf)
  exact ⟨hTO'.trans hTO, hPD'.trans hPD⟩

theorem WroteFile.sameIo (h : WroteFile i f s t) : SameIo f s t := by
  obtain @⟨fl, s1, _, hr, r⟩ := h
  refine ⟨fun hc => ?_, fun name hc => ?_⟩
  · cases readThrough_eq_self hr hc
    obtain ⟨hlog, hlev⟩ := cellWritten_io fl hc r s
    exact ⟨hlog, cellWritten_draws fl _ r s, hlev⟩
  · obtain ⟨n, log, rfl⟩ := readThrough_eq hr
    exact cellWritten_ioLevels_load fl hc r _

/-- The frame of a file write. -/
theorem WroteFile.fileFrame (h : WroteFile i f s t) (hwf : s.params.wf = true) : FileFrame i f s t :=
  ⟨h.sameOutsideFile, h.w_eq, h.pclath_eq, h.intcon_eq, h.option_eq, h.fsr_eq, h.otherStatusBits hwf,
    fun _ => h.ram_load_eq, h.sameIo⟩

/-- The same of a write of W. -/
theorem LoadedW.exists_write (h : LoadedW i s t) :
    ∃ fl r n log, ListedFlags s.params i fl ∧ t = applyFlags fl { s with w := r, draws := n, ioLog := log } := by
  obtain @⟨fl, s1, hl, hr, r⟩ := h
  obtain ⟨n, log, rfl⟩ := readOperand_eq hr
  exact ⟨fl, r, n, log, hl, rfl⟩

/-- A write of W changes W, STATUS and what the read of the operand did. -/
theorem LoadedW.eq (h : LoadedW i s t) :
    t = { s with w := t.w, status := t.status, ioLog := t.ioLog, draws := t.draws } := by
  obtain ⟨fl, r, n, log, _, rfl⟩ := h.exists_write
  rfl

theorem LoadedW.otherStatusBits (h : LoadedW i s t) (hwf : s.params.wf = true) : OtherStatusBits i s t := by
  obtain ⟨fl, r, n, log, hl, rfl⟩ := h.exists_write
  exact applyFlags_otherStatusBits hwf hl rfl rfl

theorem LoadedW.toPd (h : LoadedW i s t) (hwf : s.params.wf = true) : flagTO t = flagTO s ∧ flagPD t = flagPD s := by
  obtain ⟨fl, r, n, log, _, rfl⟩ := h.exists_write
  exact applyFlags_toPd fl (s := { s with w := r, draws := n, ioLog := log }) hwf

theorem LoadedW.sameIo (h : LoadedW i s t) (hs : fileSource i = some f) : SameIo f s t := by
  obtain @⟨fl, s1, _, hr, r⟩ := h
  have hread := readThrough_of_operand hr hs
  refine ⟨fun hc => ?_, fun name _ => ?_⟩
  · cases readThrough_eq_self hread hc
    exact ⟨rfl, rfl, rfl⟩
  · obtain ⟨n, log, rfl⟩ := readThrough_eq hread
    rfl

end

/-- A return changes pc, the stack and the draw counter alone. -/
theorem popPc_eq {s t : State} (h : popPc s = .ok t) :
    ∃ a st n, t = { s with pc := a, stack := st, draws := n } := by
  rcases popPc_ok h with ⟨a, rest, _, rfl⟩ | ⟨_, _, rfl⟩
  · exact ⟨_, _, _, rfl⟩
  · exact ⟨_, _, _, rfl⟩

/-- A push that answers changes the stack alone. -/
theorem push_eq {a : Addr13} {s t : State} (h : push a s = .ok t) : ∃ st, t = { s with stack := st } :=
  ⟨_, (push_ok h).1⟩

end Sys2Proof.Machine

/-! SUPPORT. Frames of the instructions with a file operand, and the rules over all instructions, from `exec_effect`. -/

namespace Sys2Proof.Machine

open Sys2Proof.Claims

section

variable {i : Instr} {f : FileAddr} {s t : State}

/-! ### Which effect an instruction has -/

/-- An instruction with a destination file register that cannot skip wrote that register. -/
theorem Effect.wroteFile (h : Effect i s t) (hd : fileDest i = some f) (hs : canSkip i = false) : WroteFile i f s t := by
  cases h with
  | wrote hd' h' => cases hd.symm.trans hd'; exact h'
  | loaded hn | tested hn => cases hd.symm.trans hn
  | skipped hc | contested hc => cases hs.symm.trans hc
  | ret | retlw | retfie | call | goto | clrwdt | option | sleep | tris => cases hd

/-- An instruction with a file operand and the destination W that cannot skip wrote W. -/
theorem Effect.loadedW (h : Effect i s t) (hr : fileSource i = some f) (hd : fileDest i = none) (hw : writesW i)
    (hs : canSkip i = false) : LoadedW i s t := by
  cases h with
  | loaded _ _ h' => exact h'
  | wrote hd' => cases hd.symm.trans hd'
  | tested _ hw' => exact absurd hw hw'
  | skipped hc | contested hc => cases hs.symm.trans hc
  | ret | retlw | retfie | call | goto | clrwdt | option | sleep | tris => cases hr

/-- A cell that `i` does not write is not the cell of its destination. -/
theorem effCell_ne {c : Cell} (hd : fileDest i = some f) (hn : ¬WritesCell i c s) : effCell f s ≠ c :=
  fun hc => hn ⟨f, hd, hc⟩

/-! ### What an instruction keeps -/

/-- No instruction changes the parameters or program memory (R4, R40). -/
theorem Effect.sameProgram (h : Effect i s t) : t.params = s.params ∧ t.prog = s.prog := by
  induction h with
  | wrote _ h' =>
    obtain ⟨_, hprog, _, _, _, _, _, _, hparams⟩ := h'.sameOutsideFile
    exact ⟨hparams, hprog⟩
  | loaded _ _ h' => rw [h'.eq]; exact ⟨rfl, rfl⟩
  | tested _ _ hr => obtain ⟨n, log, rfl⟩ := readOperand_eq hr; exact ⟨rfl, rfl⟩
  | skipped _ _ ih => exact ih
  | ret hp | retlw hp | retfie hp => obtain ⟨a, st, n, rfl⟩ := popPc_eq hp; exact ⟨rfl, rfl⟩
  | call hp => obtain ⟨st, rfl⟩ := push_eq hp; exact ⟨rfl, rfl⟩
  | contested | goto | clrwdt | option | sleep | tris => exact ⟨rfl, rfl⟩

/-- The stack, the sleep state, the watchdog cells and W keep but for the instructions named (R27, R33, R32, R20). -/
theorem Effect.hiddenState (h : Effect i s t) :
    (t.stack = s.stack ∨ (∃ k, i = .call k) ∨ i = .ret ∨ (∃ k, i = .retlw k) ∨ i = .retfie) ∧
    (t.asleep = s.asleep ∨ i = .sleep) ∧
    ((t.wdt = s.wdt ∧ t.wdtPrescaler = s.wdtPrescaler) ∨ i = .clrwdt ∨ i = .sleep) ∧
    (t.w = s.w ∨ writesW i) := by
  induction h with
  | wrote _ h' =>
    obtain ⟨hstack, _, hwdt, hpre, hasleep, _, _, _, _⟩ := h'.sameOutsideFile
    exact ⟨.inl hstack, .inl hasleep, .inl ⟨hwdt, hpre⟩, .inl h'.w_eq⟩
  | loaded _ hw h' => rw [h'.eq]; exact ⟨.inl rfl, .inl rfl, .inl ⟨rfl, rfl⟩, .inr hw⟩
  | tested _ _ hr =>
    obtain ⟨n, log, rfl⟩ := readOperand_eq hr
    exact ⟨.inl rfl, .inl rfl, .inl ⟨rfl, rfl⟩, .inl rfl⟩
  | skipped _ _ ih => exact ih
  | ret hp =>
    obtain ⟨a, st, n, rfl⟩ := popPc_eq hp
    exact ⟨.inr (.inr (.inl rfl)), .inl rfl, .inl ⟨rfl, rfl⟩, .inl rfl⟩
  | retlw hp =>
    obtain ⟨a, st, n, rfl⟩ := popPc_eq hp
    exact ⟨.inr (.inr (.inr (.inl ⟨_, rfl⟩))), .inl rfl, .inl ⟨rfl, rfl⟩, .inr trivial⟩
  | retfie hp =>
    obtain ⟨a, st, n, rfl⟩ := popPc_eq hp
    exact ⟨.inr (.inr (.inr (.inr rfl))), .inl rfl, .inl ⟨rfl, rfl⟩, .inl rfl⟩
  | call hp =>
    obtain ⟨st, rfl⟩ := push_eq hp
    exact ⟨.inr (.inl ⟨_, rfl⟩), .inl rfl, .inl ⟨rfl, rfl⟩, .inl rfl⟩
  | clrwdt => exact ⟨.inl rfl, .inl rfl, .inr (.inl rfl), .inl rfl⟩
  | sleep => exact ⟨.inl rfl, .inr rfl, .inr (.inr rfl), .inl rfl⟩
  | contested | goto | option | tris => exact ⟨.inl rfl, .inl rfl, .inl ⟨rfl, rfl⟩, .inl rfl⟩

/-- PCLATH, FSR, INTCON, OPTION and RAM keep where the instruction does not write them (R26, R30, R31, R39). -/
theorem Effect.specialRegisters (h : Effect i s t) :
    (¬WritesCell i .pclath s → t.pclath = s.pclath) ∧ (¬WritesCell i .fsr s → t.fsr = s.fsr) ∧
    (¬WritesCell i .intcon s → i ≠ .retfie → t.intcon = s.intcon) ∧
    (¬WritesCell i .optionReg s → i ≠ .option → t.option = s.option) ∧
    ∀ n, ¬WritesCell i (.gpr n) s → t.ram.load n = s.ram.load n := by
  induction h with
  | wrote hd h' =>
    exact ⟨fun hn => h'.pclath_eq (effCell_ne hd hn), fun hn => h'.fsr_eq (effCell_ne hd hn),
      fun hn _ => h'.intcon_eq (effCell_ne hd hn), fun hn _ => h'.option_eq (effCell_ne hd hn),
      fun n hn => h'.ram_load_eq (effCell_ne hd hn)⟩
  | skipped _ _ ih => exact ih
  | loaded _ _ h' => rw [h'.eq]; exact ⟨fun _ => rfl, fun _ => rfl, fun _ _ => rfl, fun _ _ => rfl, fun _ _ => rfl⟩
  | tested _ _ hr =>
    obtain ⟨n, log, rfl⟩ := readOperand_eq hr
    exact ⟨fun _ => rfl, fun _ => rfl, fun _ _ => rfl, fun _ _ => rfl, fun _ _ => rfl⟩
  | ret hp | retlw hp =>
    obtain ⟨a, st, n, rfl⟩ := popPc_eq hp
    exact ⟨fun _ => rfl, fun _ => rfl, fun _ _ => rfl, fun _ _ => rfl, fun _ _ => rfl⟩
  | retfie hp =>
    obtain ⟨a, st, n, rfl⟩ := popPc_eq hp
    exact ⟨fun _ => rfl, fun _ => rfl, fun _ hi => absurd rfl hi, fun _ _ => rfl, fun _ _ => rfl⟩
  | call hp =>
    obtain ⟨st, rfl⟩ := push_eq hp
    exact ⟨fun _ => rfl, fun _ => rfl, fun _ _ => rfl, fun _ _ => rfl, fun _ _ => rfl⟩
  | option => exact ⟨fun _ => rfl, fun _ => rfl, fun _ _ => rfl, fun _ hi => absurd rfl hi, fun _ _ => rfl⟩
  | contested | goto | clrwdt | sleep | tris =>
    exact ⟨fun _ => rfl, fun _ => rfl, fun _ _ => rfl, fun _ _ => rfl, fun _ _ => rfl⟩

/-! ### STATUS -/

/-- But for CLRWDT and SLEEP, an instruction whose destination is not STATUS changes no bit of it but the flags that it
lists (R29). -/
theorem Effect.otherStatusBits (h : Effect i s t) (hwf : s.params.wf = true) (hn : ¬WritesCell i .status s)
    (hc : i ≠ .clrwdt) (hs : i ≠ .sleep) : OtherStatusBits i s t := by
  induction h with
  | wrote hd h' => exact h'.otherStatusBits hwf (effCell_ne hd hn)
  | loaded _ _ h' => exact h'.otherStatusBits hwf
  | tested _ _ hr => obtain ⟨n, log, rfl⟩ := readOperand_eq hr; exact otherStatusBits_of_same _ rfl rfl
  | skipped _ _ ih => exact ih hwf hn hc hs
  | contested _ _ _ hl a => exact applyFlags_otherStatusBits hwf hl rfl rfl
  | ret hp | retlw hp | retfie hp => obtain ⟨a, st, n, rfl⟩ := popPc_eq hp; exact otherStatusBits_of_same _ rfl rfl
  | call hp => obtain ⟨st, rfl⟩ := push_eq hp; exact otherStatusBits_of_same _ rfl rfl
  | clrwdt => exact absurd rfl hc
  | sleep => exact absurd rfl hs
  | goto | option | tris => exact otherStatusBits_of_same _ rfl rfl

/-- But for CLRWDT and SLEEP, an instruction changes neither TO nor PD (R38). -/
theorem Effect.toPd (h : Effect i s t) (hwf : s.params.wf = true) (hc : i ≠ .clrwdt) (hs : i ≠ .sleep) :
    flagTO t = flagTO s ∧ flagPD t = flagPD s := by
  induction h with
  | wrote _ h' => exact h'.toPd hwf
  | loaded _ _ h' => exact h'.toPd hwf
  | tested _ _ hr => obtain ⟨n, log, rfl⟩ := readOperand_eq hr; exact ⟨rfl, rfl⟩
  | skipped _ _ ih => exact ih hwf hc hs
  | contested _ _ _ hl a => exact applyFlags_toPd _ hwf
  | ret hp | retlw hp | retfie hp => obtain ⟨a, st, n, rfl⟩ := popPc_eq hp; exact ⟨rfl, rfl⟩
  | call hp => obtain ⟨st, rfl⟩ := push_eq hp; exact ⟨rfl, rfl⟩
  | clrwdt => exact absurd rfl hc
  | sleep => exact absurd rfl hs
  | goto | option | tris => exact ⟨rfl, rfl⟩

/-- CLRWDT and SLEEP change TO and PD alone of STATUS (R29). -/
theorem setToPd_keepsFlags (a b : Bool) {s : State} (hwf : s.params.wf = true) :
    flagC (setToPd a b s) = flagC s ∧ flagDC (setToPd a b s) = flagDC s ∧ flagZ (setToPd a b s) = flagZ s ∧
      ∀ j, 5 ≤ j → (setToPd a b s).status.getLsbD j = s.status.getLsbD j := by
  obtain ⟨_, _, hC, hDC, hZ⟩ := setToPd_flags a b hwf
  refine ⟨hC, hDC, hZ, fun j hj => ?_⟩
  have hPD := s.params.statusPD.isLt
  have hTO := s.params.statusTO.isLt
  rw [setToPd_bit, if_neg (by omega), if_neg (by omega)]

end

/-! ### The obligations on frames and on all instructions -/

/-- Settles O37: each of the twelve instructions wrote W. -/
theorem frameOfByteToW : Obligations.FrameOfByteToW := by
  intro f i hi s t hwf h
  obtain ⟨hr, hd, hw, hs⟩ : fileSource i = some f ∧ fileDest i = none ∧ writesW i ∧ canSkip i = false := by
    revert i; simp [fileSource, fileDest, writesW, canSkip]
  have hload := (exec_effect h).loadedW hr hd hw hs
  have hsame : SameMemory s t := by rw [hload.eq]; exact fun _ => rfl
  exact ⟨hload.eq, hload.otherStatusBits hwf, hsame, hload.sameIo hr⟩

/-- Settles O38: each of the sixteen instructions wrote the file register. -/
theorem frameOfFileWrites : Obligations.FrameOfFileWrites := by
  intro f b i hi s t hwf h
  obtain ⟨hd, hs⟩ : fileDest i = some f ∧ canSkip i = false := by
    revert i; simp [fileDest, canSkip]
  have hwrote := (exec_effect h).wroteFile hd hs
  exact ⟨hwrote.fileFrame hwf, hwrote.pc_eq⟩

/-- Settles O43: CLRWDT and SLEEP change TO and PD alone, the others the flags they list. -/
theorem flagTableHolds : Obligations.FlagTableHolds := by
  intro i s t hwf h hn
  by_cases hi : i = .clrwdt ∨ i = .sleep
  · obtain ⟨hC, hDC, hZ, hrest⟩ : flagC t = flagC s ∧ flagDC t = flagDC s ∧ flagZ t = flagZ s ∧
        ∀ j, 5 ≤ j → t.status.getLsbD j = s.status.getLsbD j := by
      rcases hi with rfl | rfl <;> cases h
      · exact setToPd_keepsFlags true true (s := { s with wdt := 0, wdtPrescaler := 0 }) hwf
      · exact setToPd_keepsFlags true false (s := { s with wdt := 0, wdtPrescaler := 0 }) hwf
    exact ⟨fun _ => hC, fun _ => hDC, fun _ => hZ, hrest⟩
  · obtain ⟨hc, hs⟩ := not_or.mp hi
    obtain ⟨hC, hDC, hZ, hrest⟩ := (exec_effect h).otherStatusBits hwf hn hc hs
    refine ⟨hC, hDC, hZ, fun j hj => hrest j ?_ ?_ ?_⟩ <;> omega

/-- Settles O44. -/
theorem toPdOnlyByClrwdtSleep : Obligations.ToPdOnlyByClrwdtSleep :=
  fun _ _ _ hwf h hc hs => (exec_effect h).toPd hwf hc hs

/-- Settles O45. -/
theorem hiddenStateChangesByName : Obligations.HiddenStateChangesByName := by
  intro i s t h
  obtain ⟨hstack, hasleep, hwdt, hw⟩ := (exec_effect h).hiddenState
  refine ⟨hstack.resolve_left, hasleep.resolve_left, fun hne => hwdt.resolve_left ?_, hw.resolve_left⟩
  rintro ⟨h1, h2⟩
  exact hne.elim (absurd h1) (absurd h2)

/-- Settles O46. -/
theorem specialRegistersChangeByName : Obligations.SpecialRegistersChangeByName :=
  fun _ _ _ h => (exec_effect h).specialRegisters

end Sys2Proof.Machine

/-! SUPPORT. The file operand: which cell it reaches, what each kind of cell reads and takes, when an access faults. -/

namespace Sys2Proof.Machine

open Sys2Proof.Claims

section

variable {f : FileAddr} {s : State} {c : Cell}

/-! ### From the operand to the cell -/

/-- An operand that is not INDF reaches its own cell. -/
theorem effCell_of_direct (h : fileCell f s = c) (hc : c ≠ .indf) : effCell f s = c := by
  subst h
  exact if_neg hc

/-- INDF reaches the cell that it stands for (R39). -/
theorem effCell_of_indf (h : fileCell f s = .indf) : effCell f s = indirectCell s := if_pos h

theorem fileRead_of_direct (h : fileCell f s = c) (hc : c ≠ .indf) : fileRead f s = readCell c s := by
  rw [fileRead, effCell_of_direct h hc]

theorem fileRead_of_indf (h : fileCell f s = .indf) : fileRead f s = readCell (indirectCell s) s := by
  rw [fileRead, effCell_of_indf h]

theorem fileWrite_of_direct (h : fileCell f s = c) (hc : c ≠ .indf) (fl : FlagWrites) (v : Byte) :
    fileWrite fl f v s = writeCell fl c v s := by
  rw [fileWrite, effCell_of_direct h hc]

theorem fileWrite_of_indf (h : fileCell f s = .indf) (fl : FlagWrites) (v : Byte) :
    fileWrite fl f v s = writeCell fl (indirectCell s) v s := by
  rw [fileWrite, effCell_of_indf h]

/-! ### Reads (R36) -/

theorem readGpr_of_written {n : Nat} {v : Byte} (h : s.ram.load n = some v) : readGpr n s = .ok (v, s) := by
  simp only [readGpr, h]

theorem readGpr_unwritten_verdict {n : Nat} (h : s.ram.load n = none) (ht : s.params.treatment = .verdict) :
    readGpr n s = .error (.readUnwritten n) := by
  simp only [readGpr, h, ht]

theorem readGpr_unwritten_hardware {n : Nat} (h : s.ram.load n = none) (ht : s.params.treatment = .hardware) :
    readGpr n s = .ok (Config.ramPowerOn n, s) := by
  simp only [readGpr, h, ht]

theorem readCell_unimplemented_verdict (a : Byte) (ht : s.params.treatment = .verdict) :
    readCell (.unimplemented a) s = .error (.unimplementedFile a) := by
  simp only [readCell, ht]

theorem readCell_unimplemented_hardware (a : Byte) (ht : s.params.treatment = .hardware) :
    readCell (.unimplemented a) s = .ok (0x00#8, s) := by
  simp only [readCell, ht]

/-- Where `io_read` is the level and the platform drives one, a read gives it (R35). -/
theorem ioValue_of_level {name : IoName} {v : Byte} (h : s.params.ioReadSource = .level)
    (hv : s.ioLevels.load (ioNumber name) = some v) : ioValue name s = v := by
  simp only [ioValue, h, hv, Option.getD_some]

/-- Settles O13: each cell reads as R36 says. -/
theorem fileReadByCell : Obligations.FileReadByCell := by
  intro f s
  refine ⟨fun h => ?pcl, fun h => ?status, fun h => ?pclath, fun h => ?intcon, fun h => ?optionReg, fun h => ?fsr,
    fun h => ?indf, fun n v h hv => ?written, fun n h hv ht => ?unwrittenVerdict, fun n h hv ht => ?unwrittenHardware,
    fun name h => ?io, fun name v h hl hv => ?ioLevel, fun a h ht => ?noCellVerdict, fun a h ht => ?noCellHardware⟩
  case pcl =>
    have hlow : s.pc.extractLsb' 0 8 = BitVec.ofNat 8 s.pc.toNat := rfl
    rw [fileRead_of_direct h (by decide), ← hlow, readCell]
  case pclath =>
    have hwide : s.pclath.setWidth 8 = 0b000#3 ++ s.pclath := BitVec.setWidth_eq_append (by decide)
    rw [fileRead_of_direct h (by decide), ← hwide, readCell]
  case status | intcon | optionReg | fsr => exact fileRead_of_direct h (by decide)
  case indf => exact fileRead_of_indf h
  case written => rw [fileRead_of_direct h nofun]; exact readGpr_of_written hv
  case unwrittenVerdict => rw [fileRead_of_direct h nofun]; exact readGpr_unwritten_verdict hv ht
  case unwrittenHardware => rw [fileRead_of_direct h nofun]; exact ⟨_, readGpr_unwritten_hardware hv ht⟩
  case io => exact ⟨ioValue name s, fileRead_of_direct h nofun⟩
  case ioLevel => rw [fileRead_of_direct h nofun, ← ioValue_of_level hl hv]; rfl
  case noCellVerdict => rw [fileRead_of_direct h nofun]; exact readCell_unimplemented_verdict a ht
  case noCellHardware => rw [fileRead_of_direct h nofun]; exact readCell_unimplemented_hardware a ht

/-! ### Writes (R37) -/

theorem writeCell_unimplemented_verdict (fl : FlagWrites) (a v : Byte) (ht : s.params.treatment = .verdict) :
    writeCell fl (.unimplemented a) v s = .error (.unimplementedFile a) := by
  simp only [writeCell, ht]

theorem writeCell_unimplemented_hardware (fl : FlagWrites) (a v : Byte) (ht : s.params.treatment = .hardware) :
    writeCell fl (.unimplemented a) v s = .ok s := by
  simp only [writeCell, ht]

/-- A write of PCL puts PCLATH above the byte written (R25). -/
theorem writePcl_pc_toNat (v : Byte) (s : State) : (writePcl v s).pc.toNat = s.pclath.toNat * 256 + v.toNat := by
  rw [writePcl, BitVec.toNat_append, ← Nat.shiftLeft_add_eq_or_of_lt v.isLt, Nat.shiftLeft_eq]

/-- A write of a platform cell is the event and, for a latch, its level (R35). -/
theorem ioWrite_wroteIo (name : IoName) (v : Byte) (s : State) : WroteIo name v s (ioWrite name v s) := by
  refine ⟨rfl, fun h => ?_, fun h other => ?_⟩
  · simp only [ioWrite_ioLevels, ioLevelsAfter, h]
  · simp only [ioWrite_ioLevels, ioLevelsAfter_load, h, true_and]

theorem Memory.load_store (m : Memory) (n k : Nat) (v : Byte) :
    (m.store n v).load k = if k = n then some v else m.load k := by
  split
  · next h => rw [h, Memory.load_store_self]
  · next h => exact Memory.load_store_ne h m v

/-- Settles O14: each cell takes a write as R37 says. -/
theorem fileWriteByCell : Obligations.FileWriteByCell := by
  intro fl f v s
  refine ⟨fun h => ?pcl, fun h => ?pclath, fun h => ?intcon, fun h => ?optionReg, fun h => ?fsr, fun n h => ?gpr,
    fun name h => ?io, fun a h ht => ?noCellVerdict, fun a h ht => ?noCellHardware⟩
  case pcl => exact ⟨_, fileWrite_of_direct h (by decide) fl v, rfl, writePcl_pc_toNat v s⟩
  case pclath =>
    refine ⟨_, fileWrite_of_direct h (by decide) fl v, rfl, ?_⟩
    simp only [BitVec.extractLsb'_toNat, Nat.shiftRight_zero, Nat.reducePow]
  case intcon | optionReg | fsr => exact fileWrite_of_direct h (by decide) fl v
  case gpr => exact ⟨_, fileWrite_of_direct h nofun fl v, rfl, fun k => Memory.load_store s.ram n k v⟩
  case io => exact ⟨_, fileWrite_of_direct h nofun fl v, ioWrite_wroteIo name v s⟩
  case noCellVerdict => rw [fileWrite_of_direct h nofun]; exact writeCell_unimplemented_verdict fl a v ht
  case noCellHardware => rw [fileWrite_of_direct h nofun]; exact writeCell_unimplemented_hardware fl a v ht

/-! ### STATUS as a destination (R38) -/

/-- Of the three flags, the protected ones are those in S; bits 7 to 5 never are. -/
theorem protectedBits_flags {p : Params} (fl : FlagWrites) (hwf : p.wf = true) :
    (protectedBits p fl).getLsbD p.statusC.val = fl.c.isSome ∧
    (protectedBits p fl).getLsbD p.statusDC.val = fl.dc.isSome ∧
    (protectedBits p fl).getLsbD p.statusZ.val = fl.z.isSome ∧
    ∀ j, 5 ≤ j → (protectedBits p fl).getLsbD j = false := by
  have hn := paramsWf_flags hwf
  simp only [List.nodup_cons, List.mem_cons, not_or, List.not_mem_nil, not_false_eq_true, List.nodup_nil, and_true] at hn
  obtain ⟨⟨hCDC, hCZ, hCPD, hCTO⟩, ⟨hDCZ, hDCPD, hDCTO⟩, ⟨hZPD, hZTO⟩, _⟩ := hn
  refine ⟨?_, ?_, ?_, fun j hj => ?_⟩
  · simp [protectedBits_bit, Ne.symm hCDC, Ne.symm hCZ, Ne.symm hCPD, Ne.symm hCTO]
  · simp [protectedBits_bit, hCDC, Ne.symm hDCZ, Ne.symm hDCPD, Ne.symm hDCTO]
  · simp [protectedBits_bit, hCZ, hDCZ, Ne.symm hZPD, Ne.symm hZTO]
  · have hne {k : Fin 5} : k.val ≠ j := by omega
    simp [protectedBits_bit, hne]

/-- A flag written after a file write that protects it where it is computed: the computed value, or the written bit. -/
theorem getD_statusWrite_bit (fl : FlagWrites) (v : Byte) (s : State) (b : Option Bool) {j : Nat}
    (h : (protectedBits s.params fl).getLsbD j = b.isSome) :
    b.getD ((statusWrite fl v s).status.getLsbD j) = b.getD (v.getLsbD j) := by
  cases b with
  | some b => rfl
  | none => rw [statusWrite_bit, h]; rfl

/-- Settles O15: the file write protects the computed flags, which are written after it. -/
theorem statusAsDestination : Obligations.StatusAsDestination := by
  intro fl f v s hwf hcell
  obtain ⟨hpC, hpDC, hpZ, hpHigh⟩ := protectedBits_flags fl hwf
  have hwf' : (statusWrite fl v s).params.wf = true := hwf
  obtain ⟨hC, hDC, hZ, hPD, hTO⟩ := applyFlags_flags fl hwf'
  obtain ⟨hTO', hPD'⟩ := statusWrite_toPd fl v s
  have hhigh (j : Nat) (hj : 5 ≤ j) : (applyFlags fl (statusWrite fl v s)).status.getLsbD j = v.getLsbD j := by
    have hne {k : Fin 5} : j ≠ k.val := by omega
    rw [applyFlags_bit fl hwf', if_neg hne, if_neg hne, if_neg hne, statusWrite_bit, hpHigh j hj]
    rfl
  refine ⟨applyFlags fl (statusWrite fl v s), ?_, rfl, ?_, ?_, ?_, hPD.trans hPD', hTO.trans hTO', hhigh 5 (by omega),
    hhigh 6 (by omega), hhigh 7 (by omega)⟩
  · simp only [writeResult, writeDest, fileWrite, hcell, writeCell]
  · rw [hC]; exact getD_statusWrite_bit fl v s fl.c hpC
  · rw [hDC]; exact getD_statusWrite_bit fl v s fl.dc hpDC
  · rw [hZ]; exact getD_statusWrite_bit fl v s fl.z hpZ

/-! ### Indirect access (R39) -/

/-- SRC-ONLY has neither INDF nor FSR. -/
theorem srcOnlyCell_ne (p : Params) (f : FileAddr) : srcOnlyCell p f ≠ .indf ∧ srcOnlyCell p f ≠ .fsr := by
  unfold srcOnlyCell
  refine ⟨?_, ?_⟩ <;> (repeat' split) <;> exact Cell.noConfusion

theorem fileCell_srcOnly (h : s.params.fileMap = .srcOnly) (f : FileAddr) : fileCell f s = srcOnlyCell s.params f := by
  simp only [fileCell, h]

theorem fileCell_ref84 (h : s.params.fileMap = .ref84) (f : FileAddr) :
    fileCell f s = ref84Cell (BitVec.ofBool (s.status.getLsbD 5) ++ f) := by
  simp only [fileCell, h, Config.statusRP0]

theorem fileCell_table {cells : List (Nat × Cell)} (h : s.params.fileMap = .table cells) (f : FileAddr) :
    fileCell f s = tableCell cells (s.status.extractLsb' 5 3 ++ f) := by
  simp only [fileCell, h]

theorem indirectCell_ref84 (h : s.params.fileMap = .ref84) : indirectCell s = ref84Cell s.fsr := by
  simp only [indirectCell, h]

/-- Settles O16. -/
theorem indirectAccess : Obligations.IndirectAccess := by
  refine ⟨fun fl f v s hm hf => ?_, fun f s hm => ?_⟩
  · rw [fileRead_of_indf hf, fileWrite_of_indf hf, indirectCell_ref84 hm]
    refine ⟨fun hi => ?_, fun _ => ⟨rfl, rfl⟩⟩
    rw [hi]
    exact ⟨rfl, rfl⟩
  · rw [fileCell_srcOnly hm]
    exact srcOnlyCell_ne s.params f

/-! ### The file map (R35) -/

/-- A three-bit field of STATUS over the operand, as a number. -/
theorem tableKey_toNat (st : Byte) (f : FileAddr) :
    (st.extractLsb' 5 3 ++ f).toNat = st.toNat / 32 * 128 + f.toNat := by
  have hf := f.isLt
  have hst := st.isLt
  rw [BitVec.toNat_append, ← Nat.shiftLeft_add_eq_or_of_lt hf, Nat.shiftLeft_eq, BitVec.extractLsb'_toNat,
    Nat.shiftRight_eq_div_pow]
  omega

/-- An operand is the low 7 bits of an open address exactly when their numbers agree. -/
theorem eq_setWidth_iff (f : FileAddr) (a : Byte) : f = a.setWidth 7 ↔ f.toNat = a.toNat % 128 := by
  rw [← BitVec.toNat_inj, BitVec.toNat_setWidth]

/-- `FileMap.wf` looks a number up with the library's function. -/
theorem lookup_eq_lookupAt {α : Type} (k : Nat) (l : List (Nat × α)) : l.lookup k = lookupAt k l := by
  induction l with
  | nil => rfl
  | cons e rest ih =>
    obtain ⟨b, x⟩ := e
    by_cases h : k = b
    · subst h; simp [List.lookup, lookupAt]
    · simp only [List.lookup, lookupAt, beq_false_of_ne h, if_neg h, ih]

theorem tableCell_of_listed {cells : List (Nat × Cell)} {key : BitVec 10} {c : Cell}
    (h : lookupAt key.toNat cells = some c) : tableCell cells key = c := by
  rw [tableCell, h, Option.getD_some]

theorem tableCell_of_unlisted {cells : List (Nat × Cell)} {key : BitVec 10} (h : lookupAt key.toNat cells = none) :
    tableCell cells key = .unimplemented (key.setWidth 8) := by
  rw [tableCell, h, Option.getD_none]

/-- The table of REF84, at every data address. -/
theorem ref84Cell_table : ∀ a : Byte,
    (a.toNat % 128 = 0x00 → ref84Cell a = .indf) ∧ (a.toNat % 128 = 0x02 → ref84Cell a = .pcl) ∧
    (a.toNat % 128 = 0x03 → ref84Cell a = .status) ∧ (a.toNat % 128 = 0x04 → ref84Cell a = .fsr) ∧
    (a.toNat % 128 = 0x0A → ref84Cell a = .pclath) ∧ (a.toNat % 128 = 0x0B → ref84Cell a = .intcon) ∧
    (a.toNat % 128 = 0x07 ∨ 0x50 ≤ a.toNat % 128 → ref84Cell a = .unimplemented a) ∧
    (0x0C ≤ a.toNat % 128 ∧ a.toNat % 128 ≤ 0x4F → ref84Cell a = .gpr (a.toNat % 128 - 0x0C)) := by
  decide

/-- The map SRC-ONLY, by the operand's number. -/
theorem srcOnlyCell_eq (p : Params) (f : FileAddr) :
    srcOnlyCell p f =
      if f.toNat = 0x03 then .status
      else if f.toNat = 0x05 then .io .porta
      else if f.toNat = 0x0F then .gpr 3
      else if f.toNat = p.aPcl.toNat % 128 then .pcl
      else if f.toNat = p.aPclath.toNat % 128 then .pclath
      else if f.toNat = p.aIntcon.toNat % 128 then .intcon
      else if f.toNat = p.aOption.toNat % 128 then .optionReg
      else .unimplemented (f.setWidth 8) := by
  have hpoint (k : FileAddr) : f = k ↔ f.toNat = k.toNat := BitVec.toNat_inj.symm
  simp only [srcOnlyCell, eq_setWidth_iff, hpoint 0x03#7, hpoint 0x05#7, hpoint 0x0F#7]
  rfl

/-- The four registers of SRC-ONLY, where no two places agree. -/
theorem srcOnlyCell_open {p : Params}
    (h : List.Nodup [0x03, 0x05, 0x0F, p.aPcl.toNat % 128, p.aPclath.toNat % 128, p.aIntcon.toNat % 128,
      p.aOption.toNat % 128]) (f : FileAddr) :
    (f.toNat = p.aPcl.toNat % 128 → srcOnlyCell p f = .pcl) ∧
    (f.toNat = p.aPclath.toNat % 128 → srcOnlyCell p f = .pclath) ∧
    (f.toNat = p.aIntcon.toNat % 128 → srcOnlyCell p f = .intcon) ∧
    (f.toNat = p.aOption.toNat % 128 → srcOnlyCell p f = .optionReg) := by
  have hrev := List.nodup_reverse.mpr h
  simp only [List.reverse_cons, List.reverse_nil, List.nil_append, List.cons_append, List.nodup_cons, List.mem_cons,
    List.not_mem_nil, or_false, not_or] at hrev
  obtain ⟨⟨oi, oh, ol, og, op, os⟩, ⟨ih, il, ig, ip, is⟩, ⟨hl, hg, hp, hs⟩, ⟨lg, lp, ls⟩, _⟩ := hrev
  rw [srcOnlyCell_eq]
  refine ⟨fun hf => ?pcl, fun hf => ?pclath, fun hf => ?intcon, fun hf => ?optionReg⟩ <;> rw [hf]
  case pcl => rw [if_neg ls, if_neg lp, if_neg lg, if_pos rfl]
  case pclath => rw [if_neg hs, if_neg hp, if_neg hg, if_neg hl, if_pos rfl]
  case intcon => rw [if_neg is, if_neg ip, if_neg ig, if_neg il, if_neg ih, if_pos rfl]
  case optionReg => rw [if_neg os, if_neg op, if_neg og, if_neg ol, if_neg oh, if_neg oi, if_pos rfl]

/-- Every other operand of SRC-ONLY is unimplemented. -/
theorem srcOnlyCell_elsewhere {p : Params} {f : FileAddr}
    (h : f.toNat ∉ [0x03, 0x05, 0x0F, p.aPcl.toNat % 128, p.aPclath.toNat % 128, p.aIntcon.toNat % 128,
      p.aOption.toNat % 128]) : srcOnlyCell p f = .unimplemented (f.setWidth 8) := by
  simp only [List.mem_cons, List.not_mem_nil, or_false, not_or] at h
  obtain ⟨hStatus, hPorta, hGpr, hPcl, hPclath, hIntcon, hOption⟩ := h
  rw [srcOnlyCell_eq, if_neg hStatus, if_neg hPorta, if_neg hGpr, if_neg hPcl, if_neg hPclath, if_neg hIntcon,
    if_neg hOption]

theorem paramsWf_fileMap {p : Params} (h : p.wf = true) : p.fileMap.wf = true := by
  simp only [Params.wf, Bool.and_eq_true] at h
  exact h.2

/-- Where bits 7 to 5 of STATUS are 0, every meaningful map has the source's three points (R22). -/
theorem fileCell_sourcePoints (hwf : s.params.wf = true) (hst : s.status.toNat < 32) :
    fileCell 0x03#7 s = .status ∧ fileCell 0x05#7 s = .io .porta ∧ ∃ n, fileCell 0x0F#7 s = .gpr n := by
  have hbank : s.status.getLsbD 5 = false := Nat.testBit_lt_two_pow hst
  cases hm : s.params.fileMap with
  | ref84 =>
    simp only [fileCell_ref84 hm, hbank]
    exact ⟨rfl, rfl, 3, rfl⟩
  | srcOnly =>
    simp only [fileCell_srcOnly hm]
    exact ⟨rfl, rfl, 3, rfl⟩
  | table cells =>
    have hmap := paramsWf_fileMap hwf
    have hkey (f : FileAddr) : (s.status.extractLsb' 5 3 ++ f).toNat = f.toNat := by
      rw [tableKey_toNat]; omega
    simp only [hm, FileMap.wf, Bool.and_eq_true, beq_iff_eq, lookup_eq_lookupAt] at hmap
    obtain ⟨⟨hStatus, hPorta⟩, hGpr⟩ := hmap
    have hlisted {f : FileAddr} {c : Cell} (h : lookupAt f.toNat cells = some c) : fileCell f s = c := by
      rw [fileCell_table hm]
      exact tableCell_of_listed (by rw [hkey]; exact h)
    refine ⟨hlisted hStatus, hlisted hPorta, ?_⟩
    split at hGpr
    · next n hn => exact ⟨n, hlisted hn⟩
    · cases hGpr

/-- Settles O17. -/
theorem fileMapOfTable : Obligations.FileMapOfTable := by
  refine ⟨ref84Cell_table, rfl, rfl, rfl, rfl, rfl, rfl, rfl, rfl, rfl, rfl, fun s f hm => fileCell_ref84 hm f,
    fun s hm => ?_, fun s cells f hm => ?_, fun s hwf hst => fileCell_sourcePoints hwf hst⟩
  · simp only [fileCell_srcOnly hm]
    exact ⟨rfl, rfl, rfl, srcOnlyCell_open, fun f hf => ⟨_, srcOnlyCell_elsewhere hf⟩⟩
  · rw [fileCell_table hm, ← tableKey_toNat]
    exact ⟨fun c => tableCell_of_listed, fun h => ⟨_, tableCell_of_unlisted h⟩⟩

/-! ### Where an access faults -/

/-- A read faults in the treatment `verdict` alone: where there is no cell, or none that was written (R36, R41). -/
theorem fileRead_error_iff (f : FileAddr) (s : State) (e : Fault) :
    fileRead f s = .error e ↔ NoCellFault f s e ∨ UnwrittenFault f s e := by
  simp only [NoCellFault, UnwrittenFault, fileRead]
  cases effCell f s with
  | unimplemented a => cases ht : s.params.treatment <;> simp [readCell, ht, eq_comm]
  | gpr n => cases hv : s.ram.load n <;> cases ht : s.params.treatment <;> simp [readCell, readGpr, hv, ht, eq_comm]
  | _ => simp [readCell]

/-- A write faults in the treatment `verdict` alone, where there is no cell (R37). -/
theorem fileWrite_error_iff (fl : FlagWrites) (f : FileAddr) (v : Byte) (s : State) (e : Fault) :
    fileWrite fl f v s = .error e ↔ NoCellFault f s e := by
  simp only [NoCellFault, fileWrite]
  cases effCell f s with
  | unimplemented a => cases ht : s.params.treatment <;> simp [writeCell, ht, eq_comm]
  | _ => simp [writeCell]

/-- An operation answers exactly where it is no fault. -/
theorem exists_ok_iff {α : Type} (x : Except Fault α) : (∃ y, x = .ok y) ↔ ∀ e, x ≠ .error e := by
  cases x <;> simp

/-- A read answers exactly where the operand can be read. -/
theorem fileReadable_iff (f : FileAddr) (s : State) : fileReadable f s ↔ ∃ v s1, fileRead f s = .ok (v, s1) := by
  have hex : (∃ v s1, fileRead f s = .ok (v, s1)) ↔ ∃ y, fileRead f s = .ok y :=
    (Prod.exists (p := fun y => fileRead f s = .ok y)).symm
  rw [hex, exists_ok_iff]
  simp only [ne_eq, fileRead_error_iff, NoCellFault, UnwrittenFault, fileReadable]
  cases s.params.treatment with
  | hardware => simp
  | verdict => cases effCell f s <;> simp [Option.isSome_iff_ne_none]

/-- A write answers exactly where the operand can be written. -/
theorem fileWritable_iff (fl : FlagWrites) (f : FileAddr) (v : Byte) (s : State) :
    fileWritable f s ↔ ∃ t, fileWrite fl f v s = .ok t := by
  rw [exists_ok_iff]
  simp only [ne_eq, fileWrite_error_iff, NoCellFault, fileWritable]
  cases s.params.treatment with
  | hardware => simp
  | verdict => cases effCell f s <;> simp

/-! ### The fault of an instruction -/

theorem byteOp_error {e : Fault} (h : fileRead f s = .error e) (d : Dest) (op : Byte → Byte → Bool → Byte × FlagWrites) :
    toOutcome (byteOp f d op s) = .fault e := by
  simp only [byteOp, h, toOutcome]

/-- The form that names PCL as destination reads PCL, which is no fault. -/
theorem skipOp_error {e : Fault} (h : fileRead f s = .error e) (d : Dest) (op : Byte → Byte × FlagWrites) :
    toOutcome (skipOp f d op s) = .fault e := by
  have hpcl : fileCell f s ≠ .pcl := by
    intro hc
    rw [fileRead_of_direct hc (by decide)] at h
    cases h
  simp only [skipOp, hpcl, and_false, if_false, h, toOutcome]

theorem bitOp_error {e : Fault} (h : fileRead f s = .error e) (op : Byte → Byte) :
    toOutcome (bitOp f op s) = .fault e := by
  simp only [bitOp, h, toOutcome]

theorem testOp_error {e : Fault} (h : fileRead f s = .error e) (b : BitPos) (x : Bool) :
    toOutcome (testOp f b x s) = .fault e := by
  simp only [testOp, h, toOutcome]

/-- Where the read is a fault, every instruction that reads the operand is that fault (R110 (d)). -/
theorem exec_of_read_error {e : Fault} {i : Instr} (h : fileRead f s = .error e) (hi : fileSource i = some f) :
    exec i s = .fault e := by
  cases i with
  | addwf g d | andwf g d | comf g d | decf g d | incf g d | iorwf g d | movf g d | rlf g d | rrf g d | subwf g d
  | swapf g d | xorwf g d => cases hi; exact byteOp_error h d _
  | decfsz g d | incfsz g d => cases hi; exact skipOp_error h d _
  | bcf g b | bsf g b => cases hi; exact bitOp_error h _
  | btfsc g b | btfss g b => cases hi; exact testOp_error h b _
  | _ => cases hi

/-- CLRF and MOVWF read nothing: their fault is that of the write. -/
theorem exec_of_write_error {e : Fault} (h : NoCellFault f s e) :
    exec (.clrf f) s = .fault e ∧ exec (.movwf f) s = .fault e := by
  have hw (fl : FlagWrites) (v : Byte) : fileWrite fl f v s = .error e := (fileWrite_error_iff fl f v s e).mpr h
  refine ⟨?_, ?_⟩
  · simp only [exec, execClrf, writeResult, writeDest, hw, toOutcome]
  · simp only [exec, execMovwf, hw, toOutcome]

/-- Settles O19. -/
theorem readableExactlyWhen : Obligations.ReadableExactlyWhen :=
  fun f s => ⟨fileReadable_iff f s, fileRead_error_iff f s, fun _ h _ hi => exec_of_read_error h hi,
    fun fl v => ⟨fileWritable_iff fl f v s, fileWrite_error_iff fl f v s⟩, fun _ h => exec_of_write_error h,
    fun _ _ hr fl r => writeDest_after_read hr fl .f r⟩

end

/-! ### The computed jump -/

/-- Settles O21: the read of PCL is the low byte of pc, the write puts PCLATH above the sum (R25, C3). -/
theorem computedJump : Obligations.ComputedJump := by
  intro f s hf
  have hcell := effCell_of_direct hf (by decide)
  have hpc := s.pc.isLt
  have hr : fileRead f s = .ok (s.pc.extractLsb' 0 8, s) := fileRead_of_direct hf (by decide)
  obtain ⟨s2, hw, he⟩ := byteOp_of_read hr .f fun v w _ => ((add8 v w).r, aluFlags (add8 v w))
  simp only [writeDest, fileWrite, hcell, writeCell] at hw
  cases hw
  have hsum : (add8 (s.pc.extractLsb' 0 8) s.w).r.toNat = (s.pc.toNat % 256 + s.w.toNat) % 256 := by
    rw [add8_spec, BitVec.toNat_add, BitVec.extractLsb'_toNat, Nat.shiftRight_zero]
  have hto : exec (.addwf f .f) s = .next _ := congrArg toOutcome he
  refine ⟨_, hto, ?_, fun hhigh hcarry => ?_⟩ <;> rw [applyFlags_pc, writePcl_pc_toNat, hsum]
  rw [hhigh, Nat.mod_eq_of_lt hcarry]
  omega

end Sys2Proof.Machine

/-! SUPPORT. The step: reset, the boundary, the fetch, the invariant, and what a run never changes. -/

namespace Sys2Proof.Machine

open Sys2Proof.Claims

/-! ### Push and pop -/

/-- Settles O20: the cases of `push` and `pop`. -/
theorem stackDiscipline : Obligations.StackDiscipline := by
  refine ⟨fun a s h => ?room, fun a s h ht => ?fullVerdict, fun a s hwf h ht => ?fullHardware, fun a rest s h => ?top,
    fun s h ht => ?emptyVerdict, fun s h ht => ?emptyHardware⟩
  case room => exact if_pos h
  case fullVerdict => simp only [push, h, lt_irrefl, if_false, ht]
  case fullHardware =>
    have hkeep : (a :: s.stack).take s.params.stackDepth = a :: s.stack.dropLast := by
      obtain ⟨d, hd⟩ := Nat.exists_eq_add_of_le' (paramsWf_stackDepth hwf)
      rw [List.dropLast_eq_take, h, hd, List.take_succ_cons, Nat.add_sub_cancel]
    simp only [push, h, lt_irrefl, if_false, ht, hkeep]
  case top => simp only [pop, h]
  case emptyVerdict => simp only [pop, h, ht]
  case emptyHardware => exact ⟨Config.staleReturn s.draws, by simp only [pop, h, ht]⟩

/-! ### Reset -/

/-- Settles O7, by evaluation of `State.reset`. -/
theorem resetValuesOfTable : Obligations.ResetValuesOfTable :=
  ⟨rfl, rfl, rfl, rfl, rfl, rfl, rfl, rfl, rfl, rfl, rfl, rfl, rfl, rfl, fun _ => rfl, rfl, rfl, rfl⟩

/-- Settles O8: the default parameters are meaningful, and there is nothing in the stack and the memories. -/
theorem resetMeetsInvariant : Obligations.ResetMeetsInvariant := ⟨by decide, rfl⟩

/-! ### From the boundary to the instruction -/

theorem fetch_of_decode {s : State} {i : Instr} (hp : s.pc.toNat < s.params.progWords)
    (hd : decode (progRead s.pc s) = some i) : fetch s = .ok (i, { s with pc := s.pc + 1#13 }) := by
  simp only [fetch, hp, if_true, hd]

theorem fetch_out_of_range {s : State} (hp : s.params.progWords ≤ s.pc.toNat) :
    fetch s = .error (.fetchOutOfRange s.pc) := by
  simp only [fetch, Nat.not_lt.mpr hp, if_false]

/-- Where the boundary lets the step go on, it runs the instruction that the fetch answers. -/
theorem step_of_fetch {s s1 s2 : State} {i : Instr} (hb : boundary s = .proceed s1) (hf : fetch s1 = .ok (i, s2)) :
    step s = exec i s2 := by
  simp only [step, hb, hf]

theorem step_of_fetch_error {s s1 : State} {e : Fault} (hb : boundary s = .proceed s1) (hf : fetch s1 = .error e) :
    step s = .fault e := by
  simp only [step, hb, hf]

theorem boundary_of_undisturbed {s : State} (h : Undisturbed s) : boundary s = .proceed s := by
  obtain ⟨hin, hawake, hquiet⟩ := h
  simp only [boundary_of_no_input hin, boundaryQuiet, hawake, hquiet, Bool.false_eq_true, if_false]

/-- Settles O10. -/
theorem stepRunsDecodedInstruction : Obligations.StepRunsDecodedInstruction :=
  ⟨fun _ _ _ hb hp hd => step_of_fetch hb (fetch_of_decode hp hd), fun _ => boundary_of_undisturbed⟩

/-- Settles O11. -/
theorem fetchOutOfRangeStops : Obligations.FetchOutOfRangeStops :=
  fun _ _ hb hp => step_of_fetch_error hb (fetch_out_of_range hp)

/-! ### A word placed where the next step fetches -/

/-- The parts of the plain form. -/
theorem stateWf_iff {s : State} : stateWf s = true ↔
    s.params.wf = true ∧ s.stack.length ≤ s.params.stackDepth ∧ s.ram.wf s.params.fileMap.ramCells = true ∧
      s.prog.wf s.params.progWords = true ∧ risingFrom 0 s.ioLevels = true := by
  simp only [stateWf, Bool.and_eq_true, decide_eq_true_eq, and_assoc]

/-- From an undisturbed state with pc in range, the word is placed at pc and nothing else changes. -/
theorem withFetchWord_of_undisturbed {s : State} (h : Undisturbed s) (hp : s.pc.toNat < s.params.progWords) (n : Nat)
    (w : Word14) : s.withFetchWord n w.toNat = { s with prog := s.prog.store s.pc.toNat w } := by
  obtain ⟨hin, hawake, hquiet⟩ := h
  have hs : ({ s with asleep := false, inputs := [] } : State) = s := by rw [← hin, ← hawake]
  simp only [State.withFetchWord, placeFetchWord, hs, hp, if_true, hquiet, Bool.false_eq_true, if_false,
    BitVec.ofNat_toNat, BitVec.setWidth_eq]

/-- Settles O12. -/
theorem placedWordRuns : Obligations.PlacedWordRuns := by
  intro s w i hwf hund hp hd
  obtain ⟨_, _, _, hprog, _⟩ := stateWf_iff.mp hwf
  have hself := ProgramMemory.load_store_self hprog s.pc.toNat w
  refine ⟨s.prog.store s.pc.toNat w, ?_, fun a => ?_⟩
  · rw [withFetchWord_of_undisturbed hund hp]
    have hund' : Undisturbed { s with prog := s.prog.store s.pc.toNat w } := hund
    exact step_of_fetch (boundary_of_undisturbed hund') (fetch_of_decode hp (by rw [progRead, hself]; exact hd))
  · split
    · next ha => rw [ha, hself]
    · next ha => exact ProgramMemory.load_store_ne ha s.prog w

/-! ### The canonical form of a state -/

/-- A state with the same parameters and memories, and a stack that fits. -/
theorem stateWf_of_stack {s t : State} (h : stateWf s = true) (hparams : t.params = s.params)
    (hstack : t.stack.length ≤ s.params.stackDepth) (hram : t.ram = s.ram) (hprog : t.prog = s.prog)
    (hlevels : t.ioLevels = s.ioLevels) : stateWf t = true := by
  obtain ⟨hwf, _, hramWf, hprogWf, hrising⟩ := stateWf_iff.mp h
  rw [stateWf_iff, hparams, hram, hprog, hlevels]
  exact ⟨hwf, hstack, hramWf, hprogWf, hrising⟩

theorem stateWf_stack {s : State} (h : stateWf s = true) : s.stack.length ≤ s.params.stackDepth := by
  obtain ⟨_, hstack, _⟩ := stateWf_iff.mp h
  exact hstack

theorem stateWf_of_same {s t : State} (h : stateWf s = true) (hparams : t.params = s.params) (hstack : t.stack = s.stack)
    (hram : t.ram = s.ram) (hprog : t.prog = s.prog) (hlevels : t.ioLevels = s.ioLevels) : stateWf t = true :=
  stateWf_of_stack h hparams (by rw [hstack]; exact stateWf_stack h) hram hprog hlevels

theorem popPc_stateWf {s t : State} (hp : popPc s = .ok t) (h : stateWf s = true) : stateWf t = true := by
  have hlen := stateWf_stack h
  rcases popPc_ok hp with ⟨a, rest, hs, rfl⟩ | ⟨_, _, rfl⟩
  · rw [hs, List.length_cons] at hlen
    exact stateWf_of_stack h rfl (Nat.le_of_succ_le hlen) rfl rfl rfl
  · exact stateWf_of_stack h rfl hlen rfl rfl rfl

theorem push_stateWf {a : Addr13} {s t : State} (hp : push a s = .ok t) (h : stateWf s = true) : stateWf t = true := by
  obtain ⟨rfl, hlen⟩ := push_ok hp
  exact stateWf_of_stack h rfl hlen rfl rfl rfl

/-- A write of a platform cell keeps the levels canonical. -/
theorem ioWrite_stateWf (name : IoName) (v : Byte) {s : State} (h : stateWf s = true) :
    stateWf (ioWrite name v s) = true := by
  obtain ⟨hwf, hstack, hramWf, hprogWf, hrising⟩ := stateWf_iff.mp h
  exact stateWf_iff.mpr ⟨hwf, hstack, hramWf, hprogWf, ioLevelsAfter_rising name v hrising⟩

/-- A write of a cell that an operand reaches keeps the memories canonical. -/
theorem cellWritten_stateWf (fl : FlagWrites) (f : FileAddr) (v : Byte) {s t : State} (h : stateWf t = true)
    (hparams : t.params = s.params) : stateWf (cellWritten fl (effCell f s) v t) = true := by
  cases hc : effCell f s with
  | gpr n =>
    obtain ⟨hwf, hstack, hramWf, hprogWf, hrising⟩ := stateWf_iff.mp h
    have hn : n < t.params.fileMap.ramCells := by rw [hparams]; exact effCell_gpr_lt hc
    exact stateWf_iff.mpr ⟨hwf, hstack, Memory.wf_store hn v hramWf, hprogWf, hrising⟩
  | io name => exact ioWrite_stateWf name v h
  | _ => exact stateWf_of_same h rfl rfl rfl rfl rfl

/-- Every instruction keeps the plain form. -/
theorem Effect.keepsStateWf {i : Instr} {s t : State} (h : Effect i s t) (hwf : stateWf s = true) : stateWf t = true := by
  induction h with
  | @wrote i f s t _ h' =>
    obtain ⟨fl, r, n, log, _, rfl⟩ := h'.exists_write
    have hread : stateWf { s with draws := n, ioLog := log } = true := stateWf_of_same hwf rfl rfl rfl rfl rfl
    exact stateWf_of_same (cellWritten_stateWf fl f r hread rfl) rfl rfl rfl rfl rfl
  | loaded _ _ h' => rw [h'.eq]; exact stateWf_of_same hwf rfl rfl rfl rfl rfl
  | tested _ _ hr => obtain ⟨n, log, rfl⟩ := readOperand_eq hr; exact stateWf_of_same hwf rfl rfl rfl rfl rfl
  | skipped _ _ ih => exact stateWf_of_same (ih hwf) rfl rfl rfl rfl rfl
  | ret hp => exact popPc_stateWf hp hwf
  | retlw hp => exact popPc_stateWf hp (stateWf_of_same hwf rfl rfl rfl rfl rfl)
  | retfie hp => exact stateWf_of_same (popPc_stateWf hp hwf) rfl rfl rfl rfl rfl
  | call hp => exact stateWf_of_same (push_stateWf hp hwf) rfl rfl rfl rfl rfl
  | tris name v => exact ioWrite_stateWf name v hwf
  | contested | goto | clrwdt | option | sleep => exact stateWf_of_same hwf rfl rfl rfl rfl rfl

/-! ### The boundary -/

/-- A boundary first takes the input listed, if any; then it is the quiet one, a time-out or a reset. -/
theorem boundary_cases (s : State) :
    ∃ u, (u = s ∨ ∃ x rest, u = raiseFlags x { s with inputs := rest }) ∧
      (boundary s = boundaryQuiet u ∨ boundary s = boundaryTimeout u ∨
        boundary s = .settled (externalResetState u) ∨ boundary s = .settled (powerOnState u)) := by
  cases hin : s.inputs with
  | nil => exact ⟨s, .inl rfl, .inl (boundary_of_no_input hin)⟩
  | cons x rest =>
    refine ⟨raiseFlags x { s with inputs := rest }, .inr ⟨x, rest, rfl⟩, ?_⟩
    rw [boundary_of_input hin]
    rcases deliver_cases x { s with inputs := rest } with ⟨_, h⟩ | ⟨_, h⟩ | ⟨_, h⟩ | ⟨_, h⟩
    · exact .inl h
    · exact .inr (.inl h)
    · exact .inr (.inr (.inl h))
    · exact .inr (.inr (.inr h))

/-- A time-out resets an awake core, wakes a sleeping one, and is no event where the watchdog is off (R190, R195). -/
theorem boundaryTimeout_cases (s : State) :
    boundaryTimeout s = boundaryQuiet s ∨
    boundaryTimeout s =
      .proceed { s with asleep := false, status := setBit s.status s.params.statusTO false } ∨
    boundaryTimeout s = .settled (watchdogReset s) := by
  unfold boundaryTimeout
  cases s.params.wdtEnabled
  · exact .inl rfl
  · cases s.asleep
    · exact .inr (.inr rfl)
    · exact .inr (.inl rfl)

/-- `P` holds of a state in which the boundary settles, `Q` of one from which the step goes on. -/
def Boundary.Leaves (P Q : State → Prop) : Boundary → Prop
  | .settled s => P s
  | .proceed s => Q s
  | .stop _ => True

theorem Boundary.Leaves.imp {P P' Q Q' : State → Prop} {b : Boundary} (h : b.Leaves P Q) (hP : ∀ s, P s → P' s)
    (hQ : ∀ s, Q s → Q' s) : b.Leaves P' Q' := by
  cases b with
  | settled s => exact hP s h
  | proceed s => exact hQ s h
  | stop e => trivial

/-- A canonical state with the core awake: what the boundary lets go on. -/
def ReadyToRun (s : State) : Prop := stateWf s = true ∧ s.asleep = false

/-- A state that is awake meets the invariant where its plain form holds. -/
theorem ReadyToRun.inv {s : State} (h : ReadyToRun s) : Inv s := by
  obtain ⟨hwf, hawake⟩ := h
  exact ⟨hwf, by simp only [sleepFlagsOk, hawake, Bool.not_false, Bool.true_or]⟩

theorem interruptEntry_stateWf {s t : State} (h : stateWf s = true) (he : interruptEntry s = .ok t) :
    stateWf t = true := by
  rw [interruptEntry_ok he]
  exact stateWf_of_stack h rfl (List.length_take_le _ _) rfl rfl rfl

theorem boundaryQuiet_leaves {s : State} (h : Inv s) : (boundaryQuiet s).Leaves Inv ReadyToRun := by
  have hwf := h.wf
  rcases boundaryQuiet_cases s with ⟨_, _, hb⟩ | ⟨_, _, hb⟩ | ⟨hawake, _, ⟨t, he, hb⟩ | ⟨e, _, hb⟩⟩ | ⟨hawake, _, hb⟩ <;>
    rw [hb]
  · exact ⟨stateWf_of_same hwf rfl rfl rfl rfl rfl, rfl⟩
  · exact h
  · have ht := interruptEntry_ok he
    exact ⟨interruptEntry_stateWf hwf he, by rw [ht]; exact hawake⟩
  · trivial
  · exact ⟨hwf, hawake⟩

/-- A reset empties the stack and wakes the core. -/
theorem resetCore_ready {s : State} (h : stateWf s = true) : ReadyToRun (resetCore s) :=
  ⟨stateWf_of_stack h rfl (Nat.zero_le _) rfl rfl rfl, rfl⟩

theorem watchdogReset_ready {s : State} (h : stateWf s = true) : ReadyToRun (watchdogReset s) := by
  obtain ⟨hwf, hawake⟩ := resetCore_ready h
  exact ⟨stateWf_of_same hwf rfl rfl rfl rfl rfl, hawake⟩

theorem externalResetState_ready {s : State} (h : stateWf s = true) : ReadyToRun (externalResetState s) := by
  obtain ⟨hwf, hawake⟩ := resetCore_ready h
  exact ⟨stateWf_of_same hwf rfl rfl rfl rfl rfl, hawake⟩

theorem powerOnState_ready {s : State} (h : stateWf s = true) : ReadyToRun (powerOnState s) := by
  obtain ⟨hwf, _, _, hprog, hrising⟩ := stateWf_iff.mp h
  exact ⟨stateWf_iff.mpr ⟨hwf, Nat.zero_le _, rfl, hprog, hrising⟩, rfl⟩

theorem boundaryTimeout_leaves {s : State} (h : Inv s) : (boundaryTimeout s).Leaves Inv ReadyToRun := by
  rcases boundaryTimeout_cases s with hb | hb | hb <;> rw [hb]
  · exact boundaryQuiet_leaves h
  · exact ⟨stateWf_of_same h.wf rfl rfl rfl rfl rfl, rfl⟩
  · exact (watchdogReset_ready h.wf).inv

/-- Taking an input keeps the invariant. -/
theorem raiseFlags_inv (x : PlatformInput) (rest : List PlatformInput) {s : State} (h : Inv s) :
    Inv (raiseFlags x { s with inputs := rest }) := by
  obtain ⟨hwf, hstack, hram, hprog, hrising⟩ := stateWf_iff.mp h.wf
  exact ⟨stateWf_iff.mpr ⟨hwf, hstack, hram, hprog, raiseFlags_rising x (s := { s with inputs := rest }) hrising⟩,
    h.sleepFlags⟩

/-- The boundary keeps the invariant, and what it lets go on is awake. -/
theorem boundary_leaves {s : State} (h : Inv s) : (boundary s).Leaves Inv ReadyToRun := by
  obtain ⟨u, hu, hb⟩ := boundary_cases s
  have hinv : Inv u := by
    rcases hu with rfl | ⟨x, rest, rfl⟩
    · exact h
    · exact raiseFlags_inv x rest h
  rcases hb with hb | hb | hb | hb <;> rw [hb]
  · exact boundaryQuiet_leaves hinv
  · exact boundaryTimeout_leaves hinv
  · exact (externalResetState_ready hinv.wf).inv
  · exact (powerOnState_ready hinv.wf).inv

/-! ### The invariant -/

/-- SLEEP leaves TO = 1 and PD = 0 (R164, R194). -/
theorem sleep_sleepFlags {s t : State} (hwf : s.params.wf = true) (h : exec .sleep s = .next t) :
    sleepFlagsOk t = true := by
  cases h
  obtain ⟨hTO, hPD, _⟩ := setToPd_flags true false (s := { s with wdt := 0, wdtPrescaler := 0 }) hwf
  simp only [sleepFlagsOk, Bool.or_eq_true, Bool.and_eq_true]
  exact .inr ⟨hTO, by rw [Bool.not_eq_true']; exact hPD⟩

/-- An instruction run by an awake core leaves the invariant: only SLEEP leaves the core asleep. -/
theorem exec_inv {i : Instr} {s t : State} (hx : exec i s = .next t) (h : ReadyToRun s) : Inv t := by
  obtain ⟨hwf, hawake⟩ := h
  have he := exec_effect hx
  obtain ⟨_, hasleep, _, _⟩ := he.hiddenState
  refine ⟨he.keepsStateWf hwf, ?_⟩
  rcases hasleep with hsame | rfl
  · exact (ReadyToRun.inv ⟨he.keepsStateWf hwf, hsame.trans hawake⟩).sleepFlags
  · exact sleep_sleepFlags (stateWf_iff.mp hwf).1 hx

/-- Settles O9: the boundary keeps the invariant, and the instruction runs awake. -/
theorem stepKeepsInvariant : Obligations.StepKeepsInvariant := by
  intro s t h hstep
  have hb := boundary_leaves h
  rcases step_next hstep with hs | ⟨s1, i, hp, _, _, hx⟩
  · rw [hs] at hb
    exact hb
  · rw [hp] at hb
    obtain ⟨hwf, hawake⟩ := hb
    exact exec_inv hx ⟨stateWf_of_same hwf rfl rfl rfl rfl rfl, hawake⟩

/-! ### What a run never changes -/

/-- The parameters and program memory are as before. -/
def SameProgram (s t : State) : Prop := t.params = s.params ∧ t.prog = s.prog

theorem SameProgram.trans {s t u : State} (h : SameProgram s t) (h' : SameProgram t u) : SameProgram s u := by
  obtain ⟨hparams, hprog⟩ := h
  obtain ⟨hparams', hprog'⟩ := h'
  exact ⟨hparams'.trans hparams, hprog'.trans hprog⟩

theorem boundaryQuiet_sameProgram (s : State) : (boundaryQuiet s).Leaves (SameProgram s) (SameProgram s) := by
  rcases boundaryQuiet_cases s with ⟨_, _, hb⟩ | ⟨_, _, hb⟩ | ⟨_, _, ⟨t, he, hb⟩ | ⟨e, _, hb⟩⟩ | ⟨_, _, hb⟩ <;> rw [hb]
  · exact ⟨rfl, rfl⟩
  · exact ⟨rfl, rfl⟩
  · rw [interruptEntry_ok he]; exact ⟨rfl, rfl⟩
  · trivial
  · exact ⟨rfl, rfl⟩

theorem boundaryTimeout_sameProgram (s : State) : (boundaryTimeout s).Leaves (SameProgram s) (SameProgram s) := by
  rcases boundaryTimeout_cases s with hb | hb | hb <;> rw [hb]
  · exact boundaryQuiet_sameProgram s
  · exact ⟨rfl, rfl⟩
  · exact ⟨rfl, rfl⟩

/-- No boundary changes the parameters or program memory, a reset neither. -/
theorem boundary_sameProgram (s : State) : (boundary s).Leaves (SameProgram s) (SameProgram s) := by
  obtain ⟨u, hu, hb⟩ := boundary_cases s
  have hsame : SameProgram s u := by
    rcases hu with rfl | ⟨x, rest, rfl⟩ <;> exact ⟨rfl, rfl⟩
  have hleaves : (boundary s).Leaves (SameProgram u) (SameProgram u) := by
    rcases hb with hb | hb | hb | hb <;> rw [hb]
    · exact boundaryQuiet_sameProgram u
    · exact boundaryTimeout_sameProgram u
    · exact ⟨rfl, rfl⟩
    · exact ⟨rfl, rfl⟩
  exact hleaves.imp (fun _ => hsame.trans) (fun _ => hsame.trans)

theorem step_sameProgram {s t : State} (h : step s = .next t) : SameProgram s t := by
  have hb := boundary_sameProgram s
  rcases step_next h with hs | ⟨s1, i, hp, _, _, hx⟩
  · rw [hs] at hb
    exact hb
  · rw [hp] at hb
    exact SameProgram.trans hb (exec_effect hx).sameProgram

/-- A run of one step more is a step and a run. -/
theorem run_succ_next {k : Nat} {s t : State} (h : Host.Core.run core (k + 1) s = .next t) :
    ∃ s1, step s = .next s1 ∧ Host.Core.run core k s1 = .next t := by
  have hstep : core.step s = step s := rfl
  simp only [Host.Core.run, hstep] at h
  cases hs : step s with
  | next s1 => rw [hs] at h; exact ⟨s1, rfl, h⟩
  | fault e => rw [hs] at h; cases h
  | refused r => rw [hs] at h; cases h

/-- Settles O47, by induction on the number of steps. -/
theorem programMemoryConstant : Obligations.ProgramMemoryConstant := by
  intro k s t h
  have hsame : SameProgram s t := by
    induction k generalizing s with
    | zero => cases h; exact ⟨rfl, rfl⟩
    | succ k ih =>
      obtain ⟨s1, hs, hrest⟩ := run_succ_next h
      exact (step_sameProgram hs).trans (ih s1 hrest)
  obtain ⟨hparams, hprog⟩ := hsame
  exact ⟨hparams, fun a => by rw [progRead, progRead, hprog]⟩

end Sys2Proof.Machine

/-! SUPPORT. The record of events at platform cells never reaches the core: with older events below the record, every
operation does the same and keeps them below. -/

namespace Sys2Proof.Machine

open Sys2Proof.Claims

/-- `s` with the events `log` recorded before all that it records. -/
def withOlder (log : List IoEvent) (s : State) : State := { s with ioLog := s.ioLog ++ log }

/-- `g` applied to the next state, where there is one. -/
def mapNext (g : State → State) (x : Host.Outcome State Fault Refusal) : Host.Outcome State Fault Refusal :=
  match x with
  | .next t => .next (g t)
  | .fault e => .fault e
  | .refused r => .refused r

/-- `g` applied to the state of a boundary. -/
def Boundary.map (g : State → State) (b : Boundary) : Boundary :=
  match b with
  | .settled s => .settled (g s)
  | .proceed s => .proceed (g s)
  | .stop e => .stop e

section

variable (log : List IoEvent) (s : State)

/-! ### The file operand -/

theorem readCell_withOlder (c : Cell) :
    readCell c (withOlder log s) = (readCell c s).map (Prod.map id (withOlder log)) := by
  cases c with
  | gpr n =>
    have hload : (withOlder log s).ram.load n = s.ram.load n := rfl
    have htreat : (withOlder log s).params.treatment = s.params.treatment := rfl
    simp only [readCell, readGpr, hload, htreat]
    cases s.ram.load n with
    | some v => rfl
    | none => cases s.params.treatment <;> rfl
  | unimplemented a =>
    have htreat : (withOlder log s).params.treatment = s.params.treatment := rfl
    simp only [readCell, htreat]
    cases s.params.treatment <;> rfl
  | _ => rfl

theorem fileRead_withOlder (f : FileAddr) :
    fileRead f (withOlder log s) = (fileRead f s).map (Prod.map id (withOlder log)) :=
  readCell_withOlder log s (effCell f s)

theorem fileWrite_withOlder (fl : FlagWrites) (f : FileAddr) (v : Byte) :
    fileWrite fl f v (withOlder log s) = (fileWrite fl f v s).map (withOlder log) := by
  have hcell : effCell f (withOlder log s) = effCell f s := rfl
  simp only [fileWrite, hcell]
  cases effCell f s with
  | unimplemented a =>
    have htreat : (withOlder log s).params.treatment = s.params.treatment := rfl
    simp only [writeCell, htreat]
    cases s.params.treatment <;> rfl
  | _ => rfl

theorem writeDest_withOlder (fl : FlagWrites) (d : Dest) (f : FileAddr) (r : Byte) :
    writeDest fl d f r (withOlder log s) = (writeDest fl d f r s).map (withOlder log) := by
  cases d with
  | w => rfl
  | f => exact fileWrite_withOlder log s fl f r

theorem writeResult_withOlder (d : Dest) (f : FileAddr) (r : Byte) (fl : FlagWrites) :
    writeResult d f r fl (withOlder log s) = (writeResult d f r fl s).map (withOlder log) := by
  simp only [writeResult, writeDest_withOlder]
  cases writeDest fl d f r s <;> rfl

/-! ### The shared shapes -/

theorem byteOp_withOlder (f : FileAddr) (d : Dest) (op : Byte → Byte → Bool → Byte × FlagWrites) :
    byteOp f d op (withOlder log s) = (byteOp f d op s).map (withOlder log) := by
  simp only [byteOp, fileRead_withOlder]
  rcases fileRead f s with e | ⟨v, s1⟩
  · rfl
  · exact writeResult_withOlder log s1 d f _ _

theorem skipOp_withOlder (f : FileAddr) (d : Dest) (op : Byte → Byte × FlagWrites) :
    skipOp f d op (withOlder log s) = (skipOp f d op s).map (withOlder log) := by
  have hcell : fileCell f (withOlder log s) = fileCell f s := rfl
  simp only [skipOp, hcell, fileRead_withOlder]
  split
  · have htreat : (withOlder log s).params.treatment = s.params.treatment := rfl
    simp only [contestedPcWrite, htreat]
    cases s.params.treatment <;> rfl
  · rcases fileRead f s with e | ⟨v, s1⟩
    · rfl
    · simp only [Except.map, Prod.map_apply, id_eq, writeResult_withOlder]
      cases writeResult d f (op v).1 (op v).2 s1 with
      | error e => rfl
      | ok s2 => exact congrArg Except.ok (apply_ite (withOlder log) _ (skip s2) s2).symm

theorem bitOp_withOlder (f : FileAddr) (op : Byte → Byte) :
    bitOp f op (withOlder log s) = (bitOp f op s).map (withOlder log) := by
  simp only [bitOp, fileRead_withOlder]
  rcases fileRead f s with e | ⟨v, s1⟩
  · rfl
  · exact fileWrite_withOlder log s1 noFlags f (op v)

theorem testOp_withOlder (f : FileAddr) (b : BitPos) (x : Bool) :
    testOp f b x (withOlder log s) = (testOp f b x s).map (withOlder log) := by
  simp only [testOp, fileRead_withOlder]
  rcases fileRead f s with e | ⟨v, s1⟩
  · rfl
  · simp only [Except.map, Prod.map_apply, id_eq]
    split <;> rfl

/-! ### The stack -/

theorem push_withOlder (a : Addr13) : push a (withOlder log s) = (push a s).map (withOlder log) := by
  have hstack : (withOlder log s).stack = s.stack := rfl
  have hparams : (withOlder log s).params = s.params := rfl
  simp only [push, hstack, hparams]
  split
  · rfl
  · cases s.params.treatment <;> rfl

theorem popPc_withOlder : popPc (withOlder log s) = (popPc s).map (withOlder log) := by
  have hstack : (withOlder log s).stack = s.stack := rfl
  have hparams : (withOlder log s).params = s.params := rfl
  simp only [popPc, pop, hstack, hparams]
  cases s.stack with
  | cons a rest => rfl
  | nil => cases s.params.treatment <;> rfl

theorem interruptReturn_withOlder : interruptReturn (withOlder log s) = (interruptReturn s).map (withOlder log) := by
  simp only [interruptReturn, popPc_withOlder]
  cases popPc s <;> rfl

theorem interruptEntry_withOlder : interruptEntry (withOlder log s) = (interruptEntry s).map (withOlder log) := by
  have hpush := push_withOlder log (setGie false s) s.pc
  have hparts : push (withOlder log s).pc (setGie false (withOlder log s)) =
      push s.pc (withOlder log (setGie false s)) := rfl
  simp only [interruptEntry, hparts, hpush]
  cases push s.pc (setGie false s) <;> rfl

/-! ### Every instruction -/

variable {log s} in
/-- An operation that keeps older events below gives an outcome that does. -/
theorem toOutcome_withOlder {x y : Except Fault State} (h : x = y.map (withOlder log)) :
    toOutcome x = mapNext (withOlder log) (toOutcome y) := by
  subst h
  cases y <;> rfl

theorem exec_withOlder (i : Instr) : exec i (withOlder log s) = mapNext (withOlder log) (exec i s) := by
  cases i with
  | addwf f d | andwf f d | comf f d | decf f d | incf f d | iorwf f d | movf f d | rlf f d | rrf f d | subwf f d
  | swapf f d | xorwf f d => exact toOutcome_withOlder (byteOp_withOlder log s f d _)
  | decfsz f d | incfsz f d => exact toOutcome_withOlder (skipOp_withOlder log s f d _)
  | bcf f b | bsf f b => exact toOutcome_withOlder (bitOp_withOlder log s f _)
  | btfsc f b | btfss f b => exact toOutcome_withOlder (testOp_withOlder log s f b _)
  | clrf f => exact toOutcome_withOlder (writeResult_withOlder log s .f f _ _)
  | movwf f => exact toOutcome_withOlder (fileWrite_withOlder log s noFlags f s.w)
  | ret => exact toOutcome_withOlder (popPc_withOlder log s)
  | retlw k => exact toOutcome_withOlder (popPc_withOlder log { s with w := k })
  | retfie => exact toOutcome_withOlder (interruptReturn_withOlder log s)
  | call k =>
    have hpc : (withOlder log s).pc = s.pc := rfl
    simp only [exec, execCall, hpc, push_withOlder]
    cases push s.pc s <;> rfl
  | tris f =>
    have htreat : (withOlder log s).params.treatment = s.params.treatment := rfl
    simp only [exec, execTris, htreat]
    cases s.params.treatment <;> cases trisRegister f <;> rfl
  | addlw | andlw | iorlw | movlw | sublw | xorlw | clrw | nop | clrwdt | option | sleep | goto => rfl

theorem toOutcome_ne_refused (x : Except Fault State) (r : Refusal) : toOutcome x ≠ .refused r := by
  cases x <;> exact nofun

/-- Every instruction has a meaning. -/
theorem exec_ne_refused (i : Instr) (r : Refusal) : exec i s ≠ .refused r := by
  cases i with
  | addlw | andlw | iorlw | movlw | sublw | xorlw | clrw | nop | clrwdt | option | sleep | goto =>
    exact nofun
  | call k =>
    simp only [exec, execCall]
    split <;> exact nofun
  | tris f =>
    simp only [exec, execTris]
    split <;> exact nofun
  | _ => exact toOutcome_ne_refused _ r

/-! ### The step -/

theorem boundaryQuiet_withOlder : boundaryQuiet (withOlder log s) = (boundaryQuiet s).map (withOlder log) := by
  have hasleep : (withOlder log s).asleep = s.asleep := rfl
  have hirq : irq (withOlder log s) = irq s := rfl
  have hpending : interruptPending (withOlder log s) = interruptPending s := rfl
  simp only [boundaryQuiet, hasleep, hirq, hpending, interruptEntry_withOlder]
  split
  · split <;> rfl
  · split
    · cases interruptEntry s <;> rfl
    · rfl

theorem boundaryTimeout_withOlder : boundaryTimeout (withOlder log s) = (boundaryTimeout s).map (withOlder log) := by
  have hasleep : (withOlder log s).asleep = s.asleep := rfl
  have hparams : (withOlder log s).params = s.params := rfl
  simp only [boundaryTimeout, hasleep, hparams, boundaryQuiet_withOlder]
  split
  · split <;> rfl
  · rfl

theorem deliver_withOlder (x : PlatformInput) : deliver x (withOlder log s) = (deliver x s).map (withOlder log) := by
  have hquiet := boundaryQuiet_withOlder log (raiseFlags x s)
  have htimeout := boundaryTimeout_withOlder log (raiseFlags x s)
  have hraise : raiseFlags x (withOlder log s) = withOlder log (raiseFlags x s) := rfl
  simp only [deliver, hraise, hquiet, htimeout]
  split <;> rfl

theorem boundary_withOlder : boundary (withOlder log s) = (boundary s).map (withOlder log) := by
  have hin : (withOlder log s).inputs = s.inputs := rfl
  simp only [boundary, hin]
  cases s.inputs with
  | nil => exact boundaryQuiet_withOlder log s
  | cons x rest => exact deliver_withOlder log { s with inputs := rest } x

theorem fetch_withOlder : fetch (withOlder log s) = (fetch s).map (Prod.map id (withOlder log)) := by
  have hpc : (withOlder log s).pc = s.pc := rfl
  have hparams : (withOlder log s).params = s.params := rfl
  have hread : progRead s.pc (withOlder log s) = progRead s.pc s := rfl
  simp only [fetch, hpc, hparams, hread]
  split
  · cases decode (progRead s.pc s) <;> rfl
  · rfl

theorem step_withOlder : step (withOlder log s) = mapNext (withOlder log) (step s) := by
  simp only [step, boundary_withOlder]
  cases boundary s with
  | settled t => rfl
  | stop e => rfl
  | proceed s1 =>
    simp only [Boundary.map, fetch_withOlder]
    rcases fetch s1 with e | ⟨i, s2⟩
    · rfl
    · exact exec_withOlder log s2 i

theorem step_ne_refused (r : Refusal) : step s ≠ .refused r := by
  simp only [step]
  split
  · exact nofun
  · exact nofun
  · split
    · exact nofun
    · exact exec_ne_refused _ _ r

end

/-- A state is one with an empty record, its own record below. -/
theorem eq_withOlder (s : State) : s = withOlder s.ioLog { s with ioLog := [] } := rfl

theorem mapNext_eq_next {g : State → State} {x : Host.Outcome State Fault Refusal} {t : State}
    (h : mapNext g x = .next t) : ∃ u, x = .next u ∧ g u = t := by
  cases x with
  | next u => exact ⟨u, rfl, Host.Outcome.next.inj h⟩
  | fault e => cases h
  | refused r => cases h

theorem mapNext_eq_fault {g : State → State} {x : Host.Outcome State Fault Refusal} {e : Fault}
    (h : mapNext g x = .fault e) : x = .fault e := by
  cases x with
  | next u => cases h
  | fault e' => exact h
  | refused r => cases h

/-- Settles O48: both states are one state without a record, each with its own events below. -/
theorem ioRecordInvisible : Obligations.IoRecordInvisible := by
  intro s1 s2 hsame
  have h1 : step s1 = mapNext (withOlder s1.ioLog) (step { s1 with ioLog := [] }) := by
    conv_lhs => rw [eq_withOlder s1, step_withOlder]
  have h2 : step s2 = mapNext (withOlder s2.ioLog) (step { s1 with ioLog := [] }) := by
    have hs2 : s2 = withOlder s2.ioLog { s1 with ioLog := [] } := hsame
    conv_lhs => rw [hs2, step_withOlder]
  refine ⟨fun t1 ht => ?_, fun e he => ?_, step_ne_refused s1⟩
  · obtain ⟨u, hu, rfl⟩ := mapNext_eq_next (h1.symm.trans ht)
    exact ⟨withOlder s2.ioLog u, by rw [h2, hu]; rfl, rfl⟩
  · rw [h2, mapNext_eq_fault (h1.symm.trans he)]
    rfl

end Sys2Proof.Machine

/-! SUPPORT. A read of a general-purpose cell after a write to one. -/

namespace Sys2Proof.Machine

section

variable {s : State}

/-- A write to a general-purpose cell leaves the cell of every operand, STATUS and FSR being as they were. -/
theorem effCell_writeGpr (g : FileAddr) (n : Nat) (v : Byte) (s : State) : effCell g (writeGpr n v s) = effCell g s :=
  effCell_congr rfl rfl rfl

theorem readGpr_writeGpr_self (n : Nat) (v : Byte) (s : State) :
    readGpr n (writeGpr n v s) = .ok (v, writeGpr n v s) :=
  readGpr_of_written (Memory.load_store_self s.ram n v)

/-- What a read answers depends on what the cell holds and on the treatment alone. -/
theorem readGpr_congr {t : State} {k : Nat} {u : Byte} (hload : t.ram.load k = s.ram.load k)
    (htreat : t.params.treatment = s.params.treatment) (h : readGpr k s = .ok (u, s)) : readGpr k t = .ok (u, t) := by
  cases hv : s.ram.load k with
  | some v =>
    rw [readGpr_of_written hv] at h
    cases h
    exact readGpr_of_written (hload.trans hv)
  | none =>
    cases ht : s.params.treatment with
    | verdict => rw [readGpr_unwritten_verdict hv ht] at h; cases h
    | hardware =>
      rw [readGpr_unwritten_hardware hv ht] at h
      cases h
      exact readGpr_unwritten_hardware (hload.trans hv) (htreat.trans ht)

theorem readGpr_writeGpr_ne {n k : Nat} {u : Byte} (hne : k ≠ n) (v : Byte) (h : readGpr k s = .ok (u, s)) :
    readGpr k (writeGpr n v s) = .ok (u, writeGpr n v s) :=
  readGpr_congr (Memory.load_store_ne hne s.ram v) rfl h

theorem fileRead_of_gpr {g : FileAddr} {k : Nat} (h : effCell g s = .gpr k) : fileRead g s = readGpr k s := by
  rw [fileRead, h, readCell]

theorem fileWrite_of_gpr {f : FileAddr} {n : Nat} (h : effCell f s = .gpr n) (fl : FlagWrites) (v : Byte) :
    fileWrite fl f v s = .ok (writeGpr n v s) := by
  rw [fileWrite, h, writeCell]

end

/-- Settles O18: only the cell matters, not the operand that reaches it, and no write to a cell moves an operand. -/
theorem readSeesLatestWrite : Obligations.ReadSeesLatestWrite := by
  intro fl f g n k v s hf hg
  have hgt : effCell g (writeGpr n v s) = .gpr k := (effCell_writeGpr g n v s).trans hg
  rw [fileRead_of_gpr hg]
  refine ⟨writeGpr n v s, fileWrite_of_gpr hf fl v, hgt, fun hkn => ?same, fun hne u hu => ?other⟩ <;>
    rw [fileRead_of_gpr hgt]
  case same => rw [hkn, readGpr_writeGpr_self]
  case other => exact readGpr_writeGpr_ne hne v hu

end Sys2Proof.Machine

/-! SUPPORT. The opcode map of spec/30_encoding.md R87: its rows are disjoint, so a word decodes by the row it matches;
the formats of R81 to R84, and the words that no row matches. -/

namespace Sys2Proof

/-! ### The rows are disjoint -/

/-- Where two patterns differ in a bit that both masks look at, no word matches both rows. -/
theorem not_rowMatches_both {a b : OpcodeRow} (h : a.pattern &&& b.mask ≠ b.pattern &&& a.mask) (w : Word14) :
    ¬(rowMatches w a = true ∧ rowMatches w b = true) := by
  rintro ⟨ha, hb⟩
  rw [rowMatches_iff] at ha hb
  apply h
  rw [← ha, ← hb, BitVec.and_assoc, BitVec.and_assoc, BitVec.and_comm a.mask]

theorem opcodeMap_patterns_differ : opcodeMap.Pairwise fun a b => a.pattern &&& b.mask ≠ b.pattern &&& a.mask := by
  decide

/-- Settles O5: any two patterns differ in a bit that both rows look at. -/
theorem opcodeRowsDisjoint : Obligations.OpcodeRowsDisjoint :=
  ⟨rfl, opcodeMap_patterns_differ.imp not_rowMatches_both⟩

theorem eq_of_rowMatches {w : Word14} {r r' : OpcodeRow} (hr : r ∈ opcodeMap) (hr' : r' ∈ opcodeMap)
    (hw : rowMatches w r = true) (hw' : rowMatches w r' = true) : r = r' := by
  by_contra hne
  obtain ⟨_, hdisjoint⟩ := opcodeRowsDisjoint
  have hsymm : Std.Symm fun a b : OpcodeRow => ∀ w, ¬(rowMatches w a = true ∧ rowMatches w b = true) :=
    ⟨fun _ _ h w hba => h w hba.symm⟩
  exact hdisjoint.forall hr hr' hne w ⟨hw, hw'⟩

/-- The order of the rows plays no part: a word decodes by whichever row it matches. -/
theorem decode_of_row {w : Word14} {r : OpcodeRow} (hr : r ∈ opcodeMap) (hw : rowMatches w r = true) :
    decode w = some (r.build w) := by
  rw [decode_eq_some]
  cases hf : opcodeMap.find? (rowMatches w) with
  | none => exact absurd hw (List.find?_eq_none.mp hf r hr)
  | some r' =>
    have hrr : r' = r := eq_of_rowMatches (List.mem_of_find?_eq_some hf) hr (List.find?_some hf) hw
    exact ⟨r', rfl, by rw [hrr]⟩

/-! ### The fields of a word of each format (R81 to R84) -/

section

variable {m n : Nat}

theorem exists_append (m n : Nat) (w : BitVec (m + n)) : ∃ (a : BitVec m) (b : BitVec n), w = a ++ b :=
  ⟨_, _, BitVec.extractLsb'_append_extractLsb'.symm⟩

/-- A mask that looks at no operand bit. -/
theorem append_and_eq_iff {op mask p : BitVec m} {x : BitVec n} :
    (op ++ x) &&& (mask ++ 0#n) = p ++ 0#n ↔ op &&& mask = p := by
  rw [BitVec.and_append, BitVec.and_zero, BitVec.append_left_inj]

end

theorem exists_destBit (b : BitVec 1) : ∃ d, b = destBit d := by
  obtain rfl | rfl : b = 0#1 ∨ b = 1#1 := by revert b; decide
  · exact ⟨.w, rfl⟩
  · exact ⟨.f, rfl⟩

@[simp] theorem fileField_append (x : BitVec 7) (f : FileAddr) : fileField (x ++ f) = f :=
  BitVec.extractLsb'_append_eq_right

@[simp] theorem literalField_append (op : BitVec 6) (k : Byte) : literalField (op ++ k) = k :=
  BitVec.extractLsb'_append_eq_right

@[simp] theorem addressField_append (op : BitVec 3) (k : Addr11) : addressField (op ++ k) = k :=
  BitVec.extractLsb'_append_eq_right

@[simp] theorem bitField_append (op : BitVec 4) (b : BitPos) (f : FileAddr) : bitField (op ++ b ++ f) = b := by
  rw [bitField, BitVec.extractLsb'_append_eq_of_le (by decide)]
  exact BitVec.extractLsb'_append_eq_right

@[simp] theorem destField_append (op : BitVec 6) (d : Dest) (f : FileAddr) : destField (op ++ destBit d ++ f) = d := by
  have hbit : (op ++ destBit d ++ f).getLsbD 7 = (destBit d).getLsbD 0 := by
    rw [BitVec.getLsbD_append, BitVec.getLsbD_append]
    rfl
  rw [destField, hbit]
  cases d <;> rfl

/-! ### Which row a word of each format matches -/

section

variable {build : Word14 → Instr}

theorem rowMatches_byte {op p : BitVec 6} {d : Dest} {f : FileAddr} :
    rowMatches (op ++ destBit d ++ f) ⟨0x3F00#14, p ++ 0#1 ++ 0#7, build⟩ = true ↔ op = p := by
  rw [rowMatches_iff]
  change (op ++ destBit d ++ f) &&& (BitVec.allOnes 6 ++ 0#1 ++ 0#7) = p ++ 0#1 ++ 0#7 ↔ _
  rw [append_and_eq_iff, append_and_eq_iff, BitVec.and_allOnes]

theorem rowMatches_file {op p : BitVec 7} {f : FileAddr} :
    rowMatches (op ++ f) ⟨0x3F80#14, p ++ 0#7, build⟩ = true ↔ op = p := by
  rw [rowMatches_iff]
  change (op ++ f) &&& (BitVec.allOnes 7 ++ 0#7) = p ++ 0#7 ↔ _
  rw [append_and_eq_iff, BitVec.and_allOnes]

theorem rowMatches_bit {op p : BitVec 4} {b : BitPos} {f : FileAddr} :
    rowMatches (op ++ b ++ f) ⟨0x3C00#14, p ++ 0#3 ++ 0#7, build⟩ = true ↔ op = p := by
  rw [rowMatches_iff]
  change (op ++ b ++ f) &&& (BitVec.allOnes 4 ++ 0#3 ++ 0#7) = p ++ 0#3 ++ 0#7 ↔ _
  rw [append_and_eq_iff, append_and_eq_iff, BitVec.and_allOnes]

theorem rowMatches_literal {op mask p : BitVec 6} {k : Byte} :
    rowMatches (op ++ k) ⟨mask ++ 0#8, p ++ 0#8, build⟩ = true ↔ op &&& mask = p := by
  rw [rowMatches_iff]
  exact append_and_eq_iff

theorem rowMatches_address {op p : BitVec 3} {k : Addr11} :
    rowMatches (op ++ k) ⟨0x3800#14, p ++ 0#11, build⟩ = true ↔ op = p := by
  rw [rowMatches_iff]
  change (op ++ k) &&& (BitVec.allOnes 3 ++ 0#11) = p ++ 0#11 ↔ _
  rw [append_and_eq_iff, BitVec.and_allOnes]

end

/-! ### From an instruction to its word and back -/

theorem decode_byteWord {op : BitVec 6} {c : FileAddr → Dest → Instr}
    (hr : ⟨0x3F00#14, op ++ 0#1 ++ 0#7, fun w => c (fileField w) (destField w)⟩ ∈ opcodeMap) (f : FileAddr) (d : Dest) :
    decode (op ++ destBit d ++ f) = some (c f d) := by
  simpa using decode_of_row hr (rowMatches_byte.mpr rfl)

theorem decode_fileWord {op : BitVec 7} {c : FileAddr → Instr}
    (hr : ⟨0x3F80#14, op ++ 0#7, fun w => c (fileField w)⟩ ∈ opcodeMap) (f : FileAddr) :
    decode (op ++ f) = some (c f) := by
  simpa using decode_of_row hr (rowMatches_file.mpr rfl)

theorem decode_bitWord {op : BitVec 4} {c : FileAddr → BitPos → Instr}
    (hr : ⟨0x3C00#14, op ++ 0#3 ++ 0#7, fun w => c (fileField w) (bitField w)⟩ ∈ opcodeMap) (f : FileAddr)
    (b : BitPos) : decode (op ++ b ++ f) = some (c f b) := by
  simpa using decode_of_row hr (rowMatches_bit.mpr rfl)

/-- The bits of the opcode that the row's mask leaves out are don't-care bits (R89). -/
theorem decode_literalWord {op mask p : BitVec 6} {c : Byte → Instr} (hop : op &&& mask = p)
    (hr : ⟨mask ++ 0#8, p ++ 0#8, fun w => c (literalField w)⟩ ∈ opcodeMap) (k : Byte) :
    decode (op ++ k) = some (c k) := by
  simpa using decode_of_row hr (rowMatches_literal.mpr hop)

theorem decode_addressWord {op : BitVec 3} {c : Addr11 → Instr}
    (hr : ⟨0x3800#14, op ++ 0#11, fun w => c (addressField w)⟩ ∈ opcodeMap) (k : Addr11) :
    decode (op ++ k) = some (c k) := by
  simpa using decode_of_row hr (rowMatches_address.mpr rfl)

theorem trisOperandOk_iff {f : BitVec 3} : trisOperandOk f = true ↔ f = 5#3 ∨ f = 6#3 ∨ f = 7#3 := by
  simp only [trisOperandOk, Bool.or_eq_true, beq_iff_eq, or_assoc]

/-- Settles O1: format by format, the word of an instruction matches the instruction's own row, and the row reads the
operands back. -/
theorem decodeOfEncode : Obligations.DecodeOfEncode := by
  intro i hwf
  cases i with
  | addwf f d | andwf f d | comf f d | decf f d | decfsz f d | incf f d | incfsz f d | iorwf f d | movf f d | rlf f d
  | rrf f d | subwf f d | swapf f d | xorwf f d => exact decode_byteWord (by simp [opcodeMap, byteRows]) f d
  | clrf f | movwf f => exact decode_fileWord (by simp [opcodeMap, byteRows]) f
  | bcf f b | bsf f b | btfsc f b | btfss f b => exact decode_bitWord (by simp [opcodeMap, bitRows]) f b
  | andlw k | iorlw k | xorlw k =>
    exact decode_literalWord (mask := 0x3F#6) rfl (by simp [opcodeMap, literalRows]) k
  | addlw k | sublw k => exact decode_literalWord (mask := 0x3E#6) rfl (by simp [opcodeMap, literalRows]) k
  | movlw k | retlw k => exact decode_literalWord (mask := 0x3C#6) rfl (by simp [opcodeMap, literalRows]) k
  | call k | goto k => exact decode_addressWord (by simp [opcodeMap, controlRows]) k
  | clrw | nop | clrwdt | option | retfie | ret | sleep => rfl
  | tris f => obtain rfl | rfl | rfl := trisOperandOk_iff.mp hwf <;> rfl

/-! ### From a word to its instruction and back -/

/-- Every word of a row is, but for don't-care bits, the word of the well-formed instruction that the row builds from
it. -/
def RowRoundTrips (r : OpcodeRow) : Prop :=
  ∀ w, rowMatches w r = true →
    (r.build w).wellFormed = true ∧ encode (r.build w) &&& careMask (r.build w) = w &&& careMask (r.build w)

section

variable {pattern : Word14}

theorem rowRoundTrips_byte {op : BitVec 6} {c : FileAddr → Dest → Instr} (hwf : ∀ f d, (c f d).wellFormed = true)
    (henc : ∀ f d, encode (c f d) = op ++ destBit d ++ f) (hpat : pattern = encode (c 0#7 .w)) :
    RowRoundTrips ⟨0x3F00#14, pattern, fun w => c (fileField w) (destField w)⟩ := by
  intro w hw
  obtain ⟨x, f, rfl⟩ := exists_append 7 7 w
  obtain ⟨op', b, rfl⟩ := exists_append 6 1 x
  obtain ⟨d, rfl⟩ := exists_destBit b
  rw [hpat, henc] at hw
  obtain rfl := rowMatches_byte.mp hw
  simp [hwf, henc]

theorem rowRoundTrips_file {op : BitVec 7} {c : FileAddr → Instr} (hwf : ∀ f, (c f).wellFormed = true)
    (henc : ∀ f, encode (c f) = op ++ f) (hpat : pattern = encode (c 0#7)) :
    RowRoundTrips ⟨0x3F80#14, pattern, fun w => c (fileField w)⟩ := by
  intro w hw
  obtain ⟨op', f, rfl⟩ := exists_append 7 7 w
  rw [hpat, henc] at hw
  obtain rfl := rowMatches_file.mp hw
  simp [hwf, henc]

theorem rowRoundTrips_bit {op : BitVec 4} {c : FileAddr → BitPos → Instr} (hwf : ∀ f b, (c f b).wellFormed = true)
    (henc : ∀ f b, encode (c f b) = op ++ b ++ f) (hpat : pattern = encode (c 0#7 0#3)) :
    RowRoundTrips ⟨0x3C00#14, pattern, fun w => c (fileField w) (bitField w)⟩ := by
  intro w hw
  obtain ⟨x, f, rfl⟩ := exists_append 7 7 w
  obtain ⟨op', b, rfl⟩ := exists_append 4 3 x
  rw [hpat, henc] at hw
  obtain rfl := rowMatches_bit.mp hw
  simp [hwf, henc]

theorem rowRoundTrips_literal (mask : BitVec 6) {p : BitVec 6} {c : Byte → Instr} (hwf : ∀ k, (c k).wellFormed = true)
    (henc : ∀ k, encode (c k) = p ++ k) (hp : p &&& mask = p) (hcare : ∀ k, careMask (c k) = mask ++ 0xFF#8)
    (hpat : pattern = encode (c 0#8)) : RowRoundTrips ⟨mask ++ 0#8, pattern, fun w => c (literalField w)⟩ := by
  intro w hw
  obtain ⟨op, k, rfl⟩ := exists_append 6 8 w
  rw [hpat, henc] at hw
  have hop : op &&& mask = p := rowMatches_literal.mp hw
  refine ⟨hwf _, ?_⟩
  simp only [literalField_append, henc, hcare]
  calc (p ++ k) &&& (mask ++ 0xFF#8)
      = (p &&& mask) ++ (k &&& 0xFF#8) := BitVec.and_append
    _ = (op &&& mask) ++ (k &&& 0xFF#8) := by rw [hp, hop]
    _ = (op ++ k) &&& (mask ++ 0xFF#8) := BitVec.and_append.symm

theorem rowRoundTrips_address {op : BitVec 3} {c : Addr11 → Instr} (hwf : ∀ k, (c k).wellFormed = true)
    (henc : ∀ k, encode (c k) = op ++ k) (hpat : pattern = encode (c 0#11)) :
    RowRoundTrips ⟨0x3800#14, pattern, fun w => c (addressField w)⟩ := by
  intro w hw
  obtain ⟨op', k, rfl⟩ := exists_append 3 11 w
  rw [hpat, henc] at hw
  obtain rfl := rowMatches_address.mp hw
  simp [hwf, henc]

/-- An instruction without operand: the row's mask leaves out just the don't-care bits. -/
theorem rowRoundTrips_noOperand {p : Word14} {i : Instr} (hwf : i.wellFormed = true)
    (henc : encode i &&& careMask i = p) : RowRoundTrips ⟨careMask i, p, fun _ => i⟩ :=
  fun _ hw => ⟨hwf, henc.trans ((rowMatches_iff _ _).mp hw).symm⟩

/-- A row of one word, as the three of TRIS are. -/
theorem rowRoundTrips_oneWord {p : Word14} {build : Word14 → Instr} (hwf : (build p).wellFormed = true)
    (henc : encode (build p) = p) : RowRoundTrips ⟨0x3FFF#14, p, build⟩ := by
  intro w hw
  obtain rfl : w = p := by rw [← Laws.and_allBits w]; exact (rowMatches_iff _ _).mp hw
  exact ⟨hwf, by rw [henc]⟩


end

theorem byteRows_roundTrip : ∀ r ∈ byteRows, RowRoundTrips r := by
  simp only [byteRows, List.forall_mem_cons]
  refine ⟨?addwf, ?andwf, ?clrf, rowRoundTrips_noOperand (i := .clrw) rfl rfl, ?comf, ?decf, ?decfsz, ?incf, ?incfsz,
    ?iorwf, ?movf, ?movwf, rowRoundTrips_noOperand (i := .nop) rfl rfl, ?rlf, ?rrf, ?subwf, ?swapf, ?xorwf,
    List.forall_mem_nil _⟩
  case clrf | movwf => exact rowRoundTrips_file (fun _ => rfl) (fun _ => rfl) rfl
  all_goals exact rowRoundTrips_byte (fun _ _ => rfl) (fun _ _ => rfl) rfl

theorem bitRows_roundTrip : ∀ r ∈ bitRows, RowRoundTrips r := by
  simp only [bitRows, List.forall_mem_cons]
  refine ⟨?bcf, ?bsf, ?btfsc, ?btfss, List.forall_mem_nil _⟩
  all_goals exact rowRoundTrips_bit (fun _ _ => rfl) (fun _ _ => rfl) rfl

theorem literalRows_roundTrip : ∀ r ∈ literalRows, RowRoundTrips r := by
  simp only [literalRows, List.forall_mem_cons]
  refine ⟨?addlw, ?andlw, ?iorlw, ?movlw, ?sublw, ?xorlw, ?retlw, List.forall_mem_nil _⟩
  case addlw | sublw => exact rowRoundTrips_literal 0x3E#6 (fun _ => rfl) (fun _ => rfl) rfl (fun _ => rfl) rfl
  case movlw | retlw => exact rowRoundTrips_literal 0x3C#6 (fun _ => rfl) (fun _ => rfl) rfl (fun _ => rfl) rfl
  all_goals exact rowRoundTrips_literal 0x3F#6 (fun _ => rfl) (fun _ => rfl) rfl (fun _ => rfl) rfl

theorem controlRows_roundTrip : ∀ r ∈ controlRows, RowRoundTrips r := by
  simp only [controlRows, List.forall_mem_cons]
  refine ⟨?clrwdt, ?option, ?retfie, ?ret, ?sleep, ?tris5, ?tris6, ?tris7, ?call, ?goto, List.forall_mem_nil _⟩
  case call | goto => exact rowRoundTrips_address (fun _ => rfl) (fun _ => rfl) rfl
  all_goals exact rowRoundTrips_oneWord rfl rfl

/-- Settles O2: row by row. -/
theorem encodeOfDecode : Obligations.EncodeOfDecode := by
  intro w i h
  obtain ⟨r, hf, rfl⟩ := decode_eq_some.mp h
  have hrows : ∀ r ∈ opcodeMap, RowRoundTrips r := by
    simp only [opcodeMap, List.forall_mem_append]
    exact ⟨⟨⟨byteRows_roundTrip, bitRows_roundTrip⟩, literalRows_roundTrip⟩, controlRows_roundTrip⟩
  exact hrows r (List.mem_of_find?_eq_some hf) w (List.find?_some hf)

/-- Settles O6: the words are those of the instructions. -/
theorem sampleWordsDecode : Obligations.SampleWordsDecode :=
  ⟨decodeOfEncode (.addwf 0x0F#7 .f) rfl, decodeOfEncode (.bcf 0x03#7 7#3) rfl, decodeOfEncode (.addlw 0xE5#8) rfl,
    decodeOfEncode (.tris 6#3) rfl, decodeOfEncode (.call 0x123#11) rfl, decodeOfEncode (.goto 0x7FF#11) rfl⟩

/-! ### The don't-care bits (R89) -/

theorem opcode_and_dontCare {m n : Nat} (op : BitVec m) (x : BitVec n) :
    (op ++ x) &&& (BitVec.allOnes m ++ 0#n) = op ++ 0#n :=
  append_and_eq_iff.mpr BitVec.and_allOnes

/-- Settles O4: the masks of the six rows look at no don't-care bit. -/
theorem dontCareBitsIgnored : Obligations.DontCareBitsIgnored := by
  refine ⟨fun x => ?clrw, fun x => ?nop, fun x k => ?movlw, fun x k => ?retlw, fun x k => ?addlw, fun x k => ?sublw⟩
  case clrw =>
    have hr : ⟨0x3F80#14, 0x0100#14, fun _ => .clrw⟩ ∈ opcodeMap := by simp [opcodeMap, byteRows]
    exact decode_of_row hr ((rowMatches_iff _ _).mpr (opcode_and_dontCare 0b0000010#7 x))
  case nop => revert x; decide
  case movlw | retlw | addlw | sublw =>
    exact decode_literalWord (opcode_and_dontCare _ x) (by simp [opcodeMap, literalRows]) k

/-! ### The unassigned words (R88) -/

theorem append_eq_append_iff {m n : Nat} {a a' : BitVec m} {b b' : BitVec n} :
    a ++ b = a' ++ b' ↔ a = a' ∧ b = b' := by
  refine ⟨fun h => ⟨?upper, ?lower⟩, fun ⟨ha, hb⟩ => by rw [ha, hb]⟩
  case upper => simpa only [BitVec.extractLsb'_append_eq_left] using congrArg (BitVec.extractLsb' n m) h
  case lower => simpa only [BitVec.extractLsb'_append_eq_right] using congrArg (BitVec.extractLsb' 0 n) h

/-- A row looks at the two halves of a word apart. -/
theorem rowMatches_append {hi lo : BitVec 7} {r : OpcodeRow} :
    rowMatches (hi ++ lo) r = true ↔ hi &&& r.mask.extractLsb' 7 7 = r.pattern.extractLsb' 7 7 ∧
      lo &&& r.mask.extractLsb' 0 7 = r.pattern.extractLsb' 0 7 := by
  obtain ⟨mask, pattern, build⟩ := r
  obtain ⟨maskHi, maskLo, rfl⟩ := exists_append 7 7 mask
  obtain ⟨patternHi, patternLo, rfl⟩ := exists_append 7 7 pattern
  rw [rowMatches_iff, BitVec.extractLsb'_append_eq_left, BitVec.extractLsb'_append_eq_left,
    BitVec.extractLsb'_append_eq_right, BitVec.extractLsb'_append_eq_right, ← append_eq_append_iff, ← BitVec.and_append]

/-- The twelve words below h'0080' that R88 lists as assigned. -/
def assignedBelow80 : List Nat := [0x00, 0x20, 0x40, 0x60, 0x08, 0x09, 0x62, 0x63, 0x64, 0x65, 0x66, 0x67]

/-- The block below h'0080'. -/
theorem decode_lowest_block : ∀ lo : BitVec 7, decode (0x00#7 ++ lo) = none ↔ lo.toNat ∉ assignedBelow80 := by
  decide

/-- No row takes a word of the two blocks h'3B00' and h'3B80'. -/
theorem upperHalf_unassigned : ∀ hi ∈ [0x76#7, 0x77#7], ∀ r ∈ opcodeMap,
    hi &&& r.mask.extractLsb' 7 7 ≠ r.pattern.extractLsb' 7 7 := by
  decide

/-- In each of the 125 other blocks a row that looks at the upper half alone takes all the words. -/
theorem upperHalf_assigned : ∀ hi : BitVec 7, hi ∉ [0x00#7, 0x76#7, 0x77#7] → ∃ r ∈ opcodeMap,
    hi &&& r.mask.extractLsb' 7 7 = r.pattern.extractLsb' 7 7 ∧ r.mask.extractLsb' 0 7 = 0#7 ∧
      r.pattern.extractLsb' 0 7 = 0#7 := by
  decide

/-- The unassigned words, by blocks of 128 words. -/
theorem decode_append_eq_none {hi lo : BitVec 7} : decode (hi ++ lo) = none ↔
    hi ∈ [0x76#7, 0x77#7] ∨ hi = 0x00#7 ∧ lo.toNat ∉ assignedBelow80 := by
  by_cases hzero : hi = 0x00#7
  · subst hzero
    simp [decode_lowest_block]
  · by_cases hmem : hi ∈ [0x76#7, 0x77#7]
    · have hnone : decode (hi ++ lo) = none := decode_eq_none.mpr fun r hr =>
        Bool.eq_false_iff.mpr fun hw => upperHalf_unassigned hi hmem r hr (rowMatches_append.mp hw).1
      simp only [hnone, hmem, true_or]
    · obtain ⟨r, hr, hhi, hmask, hpat⟩ := upperHalf_assigned hi (List.not_mem_cons_of_ne_of_not_mem hzero hmem)
      have hw : rowMatches (hi ++ lo) r = true := rowMatches_append.mpr ⟨hhi, by rw [hmask, hpat, BitVec.and_zero]⟩
      simp [decode_of_row hr hw, hzero, hmem]

theorem decode_eq_none_iff (w : Word14) : decode w = none ↔
    (0x3B00 ≤ w.toNat ∧ w.toNat ≤ 0x3BFF) ∨ (w.toNat < 0x80 ∧ w.toNat ∉ assignedBelow80) := by
  obtain ⟨hi, lo, rfl⟩ := exists_append 7 7 w
  have hlo := lo.isLt
  have hnum : (hi ++ lo).toNat = hi.toNat * 128 + lo.toNat := by
    rw [BitVec.toNat_append, ← Nat.shiftLeft_add_eq_or_of_lt hlo, Nat.shiftLeft_eq]
  have hblock : hi ∈ [0x76#7, 0x77#7] ↔ 0x3B00 ≤ (hi ++ lo).toNat ∧ (hi ++ lo).toNat ≤ 0x3BFF := by
    simp only [List.mem_cons, List.not_mem_nil, or_false, ← BitVec.toNat_inj, BitVec.toNat_ofNat]
    omega
  have hlowest : hi = 0x00#7 ↔ (hi ++ lo).toNat < 0x80 := by
    simp only [← BitVec.toNat_inj, BitVec.toNat_ofNat]
    omega
  rw [decode_append_eq_none, hblock, hlowest]
  refine or_congr_right (and_congr_right fun hlt => ?_)
  rw [show (hi ++ lo).toNat = lo.toNat by omega]

end Sys2Proof

/-! SUPPORT. The fetch of an unassigned word, and the results of DECFSZ and INCFSZ. -/

namespace Sys2Proof.Machine

open Sys2Proof.Claims

/-! ### The fetch of an unassigned word -/

theorem fetch_of_unassigned {s : State} (hp : s.pc.toNat < s.params.progWords) (hd : decode (progRead s.pc s) = none) :
    fetch s = .error (.illegalOpcode (progRead s.pc s)) := by
  simp only [fetch, hp, if_true, hd]

/-- Settles O3: the words by blocks of 128, the fault from the fetch, wherever the boundary lets the step go on. -/
theorem unassignedWordsFault : Obligations.UnassignedWordsFault :=
  ⟨decode_eq_none_iff, fun _ _ hb hp hd => step_of_fetch_error hb (fetch_of_unassigned hp hd), rfl⟩

/-! ### DECFSZ and INCFSZ -/

section

variable {f : FileAddr} {d : Dest} {s s1 : State} {v : Byte}

/-- `skipOp` answers where the operand can be read and the form does not name PCL as destination. -/
theorem skipOp_of_read (hform : ¬(d = .f ∧ fileCell f s = .pcl)) (hread : fileRead f s = .ok (v, s1))
    (op : Byte → Byte × FlagWrites) :
    ∃ s2, writeDest (op v).2 d f (op v).1 s1 = .ok s2 ∧
      skipOp f d op s =
        .ok (if (op v).1 = 0#8 then skip (applyFlags (op v).2 s2) else applyFlags (op v).2 s2) := by
  obtain ⟨s2, hw⟩ := writeDest_after_read hread (op v).2 d (op v).1
  exact ⟨s2, hw, by simp only [skipOp, if_neg hform, hread, writeResult, hw]⟩

/-- The flags that an instruction computes and writes last. -/
theorem statusAfter_applyFlags (fl : FlagWrites) (hwf : s.params.wf = true) :
    StatusAfter fl.c fl.dc fl.z s (applyFlags fl s) := by
  obtain ⟨hC, hDC, hZ, _, _⟩ := applyFlags_flags fl hwf
  refine ⟨rfl, hC, hDC, hZ, fun j h1 h2 h3 => ?_⟩
  rw [applyFlags_bit fl hwf, if_neg h1, if_neg h2, if_neg h3]

theorem sub_one_eq_ofNat (v : Byte) : v - 1#8 = BitVec.ofNat 8 (v.toNat + 255) := by bv_omega

theorem sub_one_eq_zero_iff (v : Byte) : v - 1#8 = 0#8 ↔ v.toNat = 1 := by bv_omega

theorem add_one_eq_ofNat (v : Byte) : v + 1#8 = BitVec.ofNat 8 (v.toNat + 1) := by bv_omega

theorem add_one_eq_zero_iff (v : Byte) : v + 1#8 = 0#8 ↔ v.toNat = 255 := by bv_omega

theorem decfsz_of_read (hform : ¬(d = .f ∧ fileCell f s = .pcl)) (hread : fileRead f s = .ok (v, s1)) :
    ∃ s2, writeDest noFlags d f (BitVec.ofNat 8 (v.toNat + 255)) s1 = .ok s2 ∧
      exec (.decfsz f d) s = .next (if v.toNat = 1 then skip s2 else s2) := by
  obtain ⟨s2, hw, hskip⟩ := skipOp_of_read hform hread fun v => (v - 1#8, noFlags)
  simp only [sub_one_eq_zero_iff, applyFlags_noFlags] at hskip
  exact ⟨s2, by rw [← sub_one_eq_ofNat]; exact hw, by simp only [exec, execDecfsz, hskip, toOutcome]⟩

/-- The flags that INCFSZ writes, Z by its parameter. -/
theorem incfsz_flags (b : Bool) (v : Byte) : (if b then zFlag (v + 1#8) else noFlags) =
    ⟨none, none, if b then some (decide (v.toNat = 255)) else none⟩ := by
  have hz : (v + 1#8 == 0#8) = decide (v.toNat = 255) := by
    rw [beq_eq_decide, decide_eq_decide, add_one_eq_zero_iff]
  cases b
  · rfl
  · simp only [if_true, zFlag, hz]

theorem incfsz_of_read (hwf : s.params.wf = true) (hform : ¬(d = .f ∧ fileCell f s = .pcl))
    (hread : fileRead f s = .ok (v, s1)) {z : Option Bool}
    (hz : z = if s.params.incfszWritesZ then some (decide (v.toNat = 255)) else none) :
    ∃ s2 t, writeDest ⟨none, none, z⟩ d f (BitVec.ofNat 8 (v.toNat + 1)) s1 = .ok s2 ∧ StatusAfter none none z s2 t ∧
      exec (.incfsz f d) s = .next (if v.toNat = 255 then skip t else t) := by
  obtain ⟨s2, hw, hskip⟩ := skipOp_of_read hform hread
    fun v => (v + 1#8, if s.params.incfszWritesZ then zFlag (v + 1#8) else noFlags)
  simp only [incfsz_flags, ← hz, add_one_eq_zero_iff] at hw hskip
  have hwf2 : s2.params.wf = true := by rw [writeDest_params hw, fileRead_params hread]; exact hwf
  refine ⟨s2, applyFlags ⟨none, none, z⟩ s2, by rw [← add_one_eq_ofNat]; exact hw, statusAfter_applyFlags _ hwf2, ?_⟩
  simp only [exec, execIncfsz, incfsz_flags, hskip, toOutcome]

end

/-- Settles O27: the words by `decodeOfEncode`, the results by the shape that the two instructions share. -/
theorem skipCounterResult : Obligations.SkipCounterResult :=
  ⟨fun f d => ⟨decodeOfEncode (.decfsz f d) rfl, decodeOfEncode (.incfsz f d) rfl⟩,
    fun _ _ _ _ _ hwf hform hread => ⟨decfsz_of_read hform hread, fun _ hz => incfsz_of_read hwf hform hread hz⟩⟩

end Sys2Proof.Machine

/-! SUPPORT. The results of the byte-oriented instructions, in numbers: what a form that reads its operand completes, the
words and cycles of its format, and the arithmetic of each instruction. -/

namespace Sys2Proof.Machine

open Sys2Proof.Claims

/-! ### Words and cycles -/

/-- The instructions that write PCL are those with a destination register that reaches it (R215). -/
theorem writesPcl_iff (i : Instr) (s : State) : writesPcl i s = true ↔ WritesCell i .pcl s := by
  have hdest : writesPcl i s = (fileDest i).any fun f => effCell f s == .pcl := by
    cases i with
    | addwf f d | andwf f d | comf f d | decf f d | decfsz f d | incf f d | incfsz f d | iorwf f d | movf f d | rlf f d
    | rrf f d | subwf f d | swapf f d | xorwf f d => cases d <;> rfl
    | _ => rfl
  rw [hdest, Option.any_eq_true]
  simp only [WritesCell, beq_iff_eq]

/-- The cycles of an instruction that neither transfers nor skips, by its destination register. -/
theorem codedWithFile_of_fileDest {i : Instr} {w : Word14} {toFile : Prop} {f : FileAddr} (hword : decode w = some i)
    (hcycles : ∀ s t, cycles i s t = if writesPcl i s then 2 else 1)
    (hdest : ∀ g, fileDest i = some g ↔ toFile ∧ g = f) : CodedWithFile i w toFile f := by
  have hpcl (s : State) : writesPcl i s = true ↔ toFile ∧ effCell f s = .pcl := by
    simp only [writesPcl_iff, WritesCell, hdest, and_assoc, exists_and_left, exists_eq_left]
  exact ⟨hword, fun s t => ⟨fun h => by rw [hcycles, if_pos ((hpcl s).mpr h)],
    fun h => by rw [hcycles, if_neg (mt (hpcl s).mp h)]⟩⟩

/-- The twelve byte-oriented instructions with a destination selector that do not skip (R81, R215). -/
theorem codedWithFile_byte {f : FileAddr} {d : Dest} {i : Instr}
    (hi : i ∈ [Instr.addwf f d, .andwf f d, .comf f d, .decf f d, .incf f d, .iorwf f d, .movf f d, .rlf f d, .rrf f d,
      .subwf f d, .swapf f d, .xorwf f d]) : CodedWithFile i (encode i) (d = .f) f := by
  cases i with
  | addwf g e | andwf g e | comf g e | decf g e | incf g e | iorwf g e | movf g e | rlf g e | rrf g e | subwf g e
  | swapf g e | xorwf g e =>
    obtain ⟨rfl, rfl⟩ : g = f ∧ e = d := by simpa using hi
    exact codedWithFile_of_fileDest (decodeOfEncode _ rfl) (fun _ _ => rfl) fun h => by
      cases e <;> simp [fileDest, eq_comm]
  | _ => simp at hi

/-- CLRF and MOVWF, which always write the register. -/
theorem codedWithFile_store {f : FileAddr} {i : Instr} (hi : i = .clrf f ∨ i = .movwf f) :
    CodedWithFile i (encode i) True f := by
  rcases hi with rfl | rfl <;>
    exact codedWithFile_of_fileDest (decodeOfEncode _ rfl) (fun _ _ => rfl) fun g => by simp [fileDest, eq_comm]

/-! ### A form with a file operand completes -/

section

variable {i : Instr} {f : FileAddr} {d : Dest} {s s1 : State} {v r : Byte} {c dc z : Option Bool}
  {op : Byte → Byte → Bool → Byte × FlagWrites}

theorem fileRead_w (h : fileRead f s = .ok (v, s1)) : s1.w = s.w := by rw [readCell_same h]

theorem fileRead_flagC (h : fileRead f s = .ok (v, s1)) : flagC s1 = flagC s := by
  rw [readCell_same h]
  rfl

/-- What a byte-oriented form computes, it computes from the operand, W and C before the read (R110). -/
theorem byteOp_eq_of_read (h : fileRead f s = .ok (v, s1)) (d : Dest) (op : Byte → Byte → Bool → Byte × FlagWrites) :
    byteOp f d op s = writeResult d f (op v s.w (flagC s)).1 (op v s.w (flagC s)).2 s1 := by
  simp only [byteOp, h, fileRead_w h, fileRead_flagC h]

/-- A result whose destination can be written completes. -/
theorem completes_of_writeResult (hexec : exec i s = toOutcome (writeResult d f r ⟨c, dc, z⟩ s1))
    (hwf : s1.params.wf = true) (hdest : ∃ s2, writeDest ⟨c, dc, z⟩ d f r s1 = .ok s2) :
    Completes i d f s1 r c dc z s := by
  obtain ⟨s2, hw⟩ := hdest
  have hwf2 : s2.params.wf = true := by rw [writeDest_params hw]; exact hwf
  exact ⟨s2, applyFlags ⟨c, dc, z⟩ s2, hw, by simp only [hexec, writeResult, hw, toOutcome],
    statusAfter_applyFlags ⟨c, dc, z⟩ hwf2⟩

/-- The template of R110, where the operand can be read. -/
theorem completes_of_byteOp (hexec : exec i s = toOutcome (byteOp f d op s)) (hwf : s.params.wf = true)
    (hread : fileRead f s = .ok (v, s1)) (hop : op v s.w (flagC s) = (r, ⟨c, dc, z⟩)) :
    Completes i d f s1 r c dc z s := by
  rw [byteOp_eq_of_read hread, hop] at hexec
  exact completes_of_writeResult hexec (by rw [fileRead_params hread]; exact hwf) (writeDest_after_read hread _ d r)

/-- CLRF and MOVWF, where the operand can be written. -/
theorem completes_of_fileWritable (hexec : exec i s = toOutcome (writeResult .f f r ⟨c, dc, z⟩ s))
    (hwf : s.params.wf = true) (hwrite : fileWritable f s) : Completes i .f f s r c dc z s :=
  completes_of_writeResult hexec hwf ((fileWritable_iff ⟨c, dc, z⟩ f r s).mp hwrite)

/-- No flag to write: the result alone. -/
theorem writeResult_noFlags (f : FileAddr) (r : Byte) (s : State) :
    writeResult .f f r noFlags s = fileWrite noFlags f r s := by
  rw [writeResult, writeDest]
  cases fileWrite noFlags f r s <;> rfl

end

/-! ### The arithmetic -/

/-- Z by a property of the operands that says when the result is zero (R28). -/
theorem zFlag_eq {r : Byte} {p : Prop} [Decidable p] (h : r = 0#8 ↔ p) : zFlag r = ⟨none, none, some (decide p)⟩ := by
  rw [zFlag, beq_eq_decide, decide_eq_decide.mpr h]

/-- `Add8` in numbers. -/
theorem add8_eq_ofNat (a b : Byte) :
    add8 a b = ⟨BitVec.ofNat 8 (a.toNat + b.toNat), decide (256 ≤ a.toNat + b.toNat),
      decide (16 ≤ a.toNat % 16 + b.toNat % 16), decide ((a.toNat + b.toNat) % 256 = 0)⟩ := by
  have hsum : a + b = BitVec.ofNat 8 (a.toNat + b.toNat) := by bv_omega
  have hzero : a + b = 0#8 ↔ (a.toNat + b.toNat) % 256 = 0 := by
    rw [← BitVec.toNat_inj, BitVec.toNat_add, BitVec.toNat_ofNat]
  rw [add8_spec, beq_eq_decide, decide_eq_decide.mpr hzero, hsum]

/-- `Sub8` in numbers; the difference is zero where the operands agree. -/
theorem sub8_eq_ofNat (a b : Byte) :
    sub8 a b = ⟨BitVec.ofNat 8 (256 + a.toNat - b.toNat), decide (b.toNat ≤ a.toNat),
      decide (b.toNat % 16 ≤ a.toNat % 16), decide (a = b)⟩ := by
  have hdiff : a - b = BitVec.ofNat 8 (256 + a.toNat - b.toNat) := by bv_omega
  have hzero : a - b = 0#8 ↔ a = b := by bv_omega
  rw [sub8_spec, beq_eq_decide, decide_eq_decide.mpr hzero, hdiff]

theorem eq_zero_iff_toNat (v : Byte) : v = 0#8 ↔ v.toNat = 0 := BitVec.toNat_inj.symm

theorem or_eq_zero_iff_toNat (a b : Byte) : a ||| b = 0#8 ↔ a.toNat = 0 ∧ b.toNat = 0 := by
  rw [BitVec.or_eq_zero_iff, eq_zero_iff_toNat, eq_zero_iff_toNat]

theorem not_eq_zero_iff_toNat (v : Byte) : ~~~v = 0#8 ↔ v.toNat = 255 := by
  have hv := v.isLt
  rw [eq_zero_iff_toNat, BitVec.toNat_not]
  omega

theorem append_toNat {m n : Nat} (x : BitVec m) (y : BitVec n) : (x ++ y).toNat = x.toNat * 2 ^ n + y.toNat := by
  rw [BitVec.toNat_append, ← Nat.shiftLeft_add_eq_or_of_lt y.isLt, Nat.shiftLeft_eq]

theorem extractLsb'_toNat_eq_div_mod {w : Nat} (x : BitVec w) (start len : Nat) :
    (x.extractLsb' start len).toNat = x.toNat / 2 ^ start % 2 ^ len := by
  rw [BitVec.extractLsb'_toNat, Nat.shiftRight_eq_div_pow]

theorem rotateLeft_eq_ofNat (v : Byte) (cin : Bool) : rotateLeft v cin = BitVec.ofNat 8 (2 * v.toNat + cin.toNat) := by
  apply BitVec.eq_of_toNat_eq
  rw [rotateLeft, append_toNat, extractLsb'_toNat_eq_div_mod, BitVec.toNat_ofBool, BitVec.toNat_ofNat]
  have hc := cin.toNat_le
  omega

theorem rotateRight_eq_ofNat (v : Byte) (cin : Bool) :
    rotateRight v cin = BitVec.ofNat 8 (v.toNat / 2 + 128 * cin.toNat) := by
  apply BitVec.eq_of_toNat_eq
  rw [rotateRight, append_toNat, extractLsb'_toNat_eq_div_mod, BitVec.toNat_ofBool, BitVec.toNat_ofNat]
  have hv := v.isLt
  have hc := cin.toNat_le
  omega

theorem swapNibbles_eq_ofNat (v : Byte) :
    swapNibbles v = BitVec.ofNat 8 (v.toNat % 16 * 16 + v.toNat / 16) := by
  have hv := v.isLt
  have hhigh : v.toNat / 2 ^ 4 < 2 ^ 4 := by omega
  have hsum : v.toNat % 16 * 16 + v.toNat / 16 < 2 ^ 8 := by omega
  apply BitVec.eq_of_toNat_eq
  rw [swapNibbles, append_toNat, extractLsb'_toNat_eq_div_mod, extractLsb'_toNat_eq_div_mod, BitVec.toNat_ofNat,
    Nat.mod_eq_of_lt hhigh, Nat.mod_eq_of_lt hsum, Nat.pow_zero, Nat.div_one]
  rfl

/-- The bit that RLF moves out. -/
theorem highBit_eq_decide (v : Byte) : v.getLsbD 7 = decide (128 ≤ v.toNat) := BitVec.msb_eq_decide v

/-- The bit that RRF moves out. -/
theorem lowBit_eq_decide (v : Byte) : v.getLsbD 0 = decide (v.toNat % 2 = 1) := Nat.testBit_zero v.toNat

/-! ### The obligations on results -/

/-- Settles O22: the template of R110 with `Add8` and `Sub8` in numbers. -/
theorem addwfSubwfResult : Obligations.AddwfSubwfResult := by
  refine ⟨fun f d => ⟨codedWithFile_byte (by simp), codedWithFile_byte (by simp)⟩,
    fun f d s s1 v hwf hread => ⟨?add, ?sub⟩⟩
  case add => exact completes_of_byteOp rfl hwf hread (by rw [add8_eq_ofNat]; rfl)
  case sub => exact completes_of_byteOp rfl hwf hread (by rw [sub8_eq_ofNat]; rfl)

/-- Settles O23: the template of R110; each Z by when the bits of the result are all 0. -/
theorem logicByteResult : Obligations.LogicByteResult := by
  refine ⟨fun f d => ⟨codedWithFile_byte (by simp), codedWithFile_byte (by simp), codedWithFile_byte (by simp),
    codedWithFile_byte (by simp)⟩, fun f d s s1 v hwf hread => ⟨⟨s.w &&& v, ?_, ?and⟩, ⟨s.w ||| v, ?_, ?or⟩,
    ⟨s.w ^^^ v, ?_, ?xor⟩, ⟨~~~v, ?_, ?com⟩⟩⟩
  case and => exact completes_of_byteOp rfl hwf hread (by rw [zFlag_eq (eq_zero_iff_toNat _)])
  case or => exact completes_of_byteOp rfl hwf hread (by rw [zFlag_eq (or_eq_zero_iff_toNat _ _)])
  case xor => exact completes_of_byteOp rfl hwf hread (by rw [zFlag_eq BitVec.xor_eq_zero_iff])
  case com => exact completes_of_byteOp rfl hwf hread (by rw [zFlag_eq (not_eq_zero_iff_toNat _)])
  · exact fun j _ => BitVec.getLsbD_and
  · exact fun j _ => BitVec.getLsbD_or
  · exact fun j _ => BitVec.getLsbD_xor
  · intro j hj
    rw [BitVec.getLsbD_not, decide_eq_true hj, Bool.true_and]

/-- Settles O24: the template of R110 with the sums modulo 2^8. -/
theorem incDecMoveResult : Obligations.IncDecMoveResult := by
  refine ⟨fun f d => ⟨codedWithFile_byte (by simp), codedWithFile_byte (by simp), codedWithFile_byte (by simp)⟩,
    fun f d s s1 v hwf hread => ⟨?inc, ?dec, ?move⟩⟩
  case inc => exact completes_of_byteOp rfl hwf hread (by rw [zFlag_eq (add_one_eq_zero_iff v), add_one_eq_ofNat])
  case dec => exact completes_of_byteOp rfl hwf hread (by rw [zFlag_eq (sub_one_eq_zero_iff v), sub_one_eq_ofNat])
  case move => exact completes_of_byteOp rfl hwf hread (by rw [zFlag_eq (eq_zero_iff_toNat v)])

/-- Settles O25: the template of R110 with the two rotations in numbers. -/
theorem rotateResult : Obligations.RotateResult := by
  refine ⟨fun f d => ⟨codedWithFile_byte (by simp), codedWithFile_byte (by simp)⟩,
    fun f d s s1 v hwf hread => ⟨?left, ?right⟩⟩
  case left =>
    exact completes_of_byteOp rfl hwf hread (by rw [rotateLeft_eq_ofNat, highBit_eq_decide]; rfl)
  case right =>
    exact completes_of_byteOp rfl hwf hread (by rw [rotateRight_eq_ofNat, lowBit_eq_decide]; rfl)

/-- Settles O26: SWAPF by the template of R110; CLRF and MOVWF write without a read (R66). -/
theorem swapClearStoreResult : Obligations.SwapClearStoreResult := by
  refine ⟨fun f d => ⟨codedWithFile_byte (by simp), codedWithFile_store (.inl rfl), codedWithFile_store (.inr rfl)⟩,
    fun f d s s1 v hwf hread => ?swap, fun f s hwf hwrite => ⟨?clear, ?store⟩⟩
  case swap => exact completes_of_byteOp rfl hwf hread (by rw [swapNibbles_eq_ofNat]; rfl)
  case clear => exact completes_of_fileWritable rfl hwf hwrite
  case store =>
    exact completes_of_fileWritable (congrArg toOutcome (writeResult_noFlags f s.w s).symm) hwf hwrite

end Sys2Proof.Machine

/-! SUPPORT. The results of the literal instructions with Z, of CLRW and of the controls; DECFSZ and INCFSZ on PCL; the
frame of the skips. -/

namespace Sys2Proof.Machine

open Sys2Proof.Claims

/-! ### Words of one cycle -/

theorem codedAs_encode {i : Instr} {n : Nat} (hwf : i.wellFormed = true) (hcycles : ∀ s t, cycles i s t = n) :
    CodedAs i (encode i) n := ⟨decodeOfEncode i hwf, hcycles⟩

/-! ### W and Z -/

/-- A result in W with Z alone, by when it is zero (R150). -/
theorem next_of_writeW_zFlag {i : Instr} {s : State} {r : Byte} {p : Prop} [Decidable p] (hwf : s.params.wf = true)
    (hexec : exec i s = .next (writeW r (zFlag r) s)) (hz : r = 0#8 ↔ p) :
    ∃ t, exec i s = .next t ∧ StatusAfter none none (some (decide p)) { s with w := r } t := by
  rw [zFlag_eq hz] at hexec
  exact ⟨_, hexec, statusAfter_applyFlags (s := { s with w := r }) _ hwf⟩

/-- Settles O32: W by the template of R150; the don't-care bits of MOVLW and CLRW by `dontCareBitsIgnored`. -/
theorem logicLiteralResult : Obligations.LogicLiteralResult := by
  obtain ⟨hclrw, _, hmovlw, _⟩ := dontCareBitsIgnored
  refine ⟨fun k => ⟨codedAs_encode rfl fun _ _ => rfl, codedAs_encode rfl fun _ _ => rfl,
      codedAs_encode rfl fun _ _ => rfl⟩,
    fun x k => ⟨hmovlw x k, fun _ _ => rfl⟩, fun x => ⟨hclrw x, fun _ _ => rfl⟩,
    fun k s hwf => ⟨?and, ?or, ?xor, rfl, ?clear⟩⟩
  case and => exact next_of_writeW_zFlag hwf rfl (eq_zero_iff_toNat _)
  case or => exact next_of_writeW_zFlag hwf rfl (or_eq_zero_iff_toNat _ _)
  case xor => exact next_of_writeW_zFlag hwf rfl BitVec.xor_eq_zero_iff
  case clear => exact next_of_writeW_zFlag (p := True) hwf rfl (by simp)

/-! ### The controls -/

/-- TO and PD take the values given, every other bit of STATUS keeps. -/
theorem setToPd_result (a b : Bool) {s : State} (hwf : s.params.wf = true) :
    flagTO (setToPd a b s) = a ∧ flagPD (setToPd a b s) = b ∧ SameButToPd s (setToPd a b s) := by
  obtain ⟨hTO, hPD, _⟩ := setToPd_flags a b hwf
  refine ⟨hTO, hPD, fun j hj hj' => ?_⟩
  rw [setToPd_bit, if_neg hj', if_neg hj]

/-- Settles O35: CLRWDT and SLEEP by what `setToPd` does, the don't-care bits of NOP by `dontCareBitsIgnored`. -/
theorem controlResult : Obligations.ControlResult := by
  obtain ⟨_, hnop, _⟩ := dontCareBitsIgnored
  refine ⟨codedAs_encode rfl fun _ _ => rfl, codedAs_encode rfl fun _ _ => rfl, codedAs_encode rfl fun _ _ => rfl,
    fun x => ⟨hnop x, fun _ _ => rfl⟩, fun s => ⟨fun hwf => ⟨?clrwdt, ?sleep⟩, rfl, rfl⟩⟩
  case clrwdt => exact ⟨_, rfl, rfl, setToPd_result true true (s := { s with wdt := 0, wdtPrescaler := 0 }) hwf⟩
  case sleep => exact ⟨_, rfl, rfl, setToPd_result true false (s := { s with wdt := 0, wdtPrescaler := 0 }) hwf⟩

/-! ### DECFSZ and INCFSZ with destination PCL -/

section

variable {f : FileAddr} {s : State}

theorem skipOp_of_pcl (hcell : fileCell f s = .pcl) (op : Byte → Byte × FlagWrites) :
    skipOp f .f op s = contestedPcWrite (op (s.pc.extractLsb' 0 8)).2 s := if_pos ⟨rfl, hcell⟩

theorem skipOp_of_pcl_verdict (hcell : fileCell f s = .pcl) (ht : s.params.treatment = .verdict)
    (op : Byte → Byte × FlagWrites) : toOutcome (skipOp f .f op s) = .fault .unmodelledForm := by
  simp only [skipOp_of_pcl hcell, contestedPcWrite, ht, toOutcome]

theorem skipOp_of_pcl_hardware (hcell : fileCell f s = .pcl) (ht : s.params.treatment = .hardware)
    (op : Byte → Byte × FlagWrites) {fl : FlagWrites} (hfl : (op (s.pc.extractLsb' 0 8)).2 = fl) :
    toOutcome (skipOp f .f op s) =
      .next { applyFlags fl s with pc := Config.contestedPc s.draws, draws := s.draws + 1 } := by
  simp only [skipOp_of_pcl hcell, contestedPcWrite, ht, hfl, toOutcome]

end

/-- Settles O28: pc is the free value, and INCFSZ's Z is that of one above the low byte of pc. -/
theorem skipCounterOnPcl : Obligations.SkipCounterOnPcl := by
  intro f s hwf hcell
  have hlow : (s.pc.extractLsb' 0 8).toNat = s.pc.toNat % 256 := by
    rw [BitVec.extractLsb'_toNat, Nat.shiftRight_zero]
  exact ⟨fun ht => ⟨skipOp_of_pcl_verdict hcell ht _, skipOp_of_pcl_verdict hcell ht _⟩,
    fun ht => ⟨⟨_, skipOp_of_pcl_hardware hcell ht _ rfl⟩,
      ⟨_, _, skipOp_of_pcl_hardware hcell ht _ (by rw [incfsz_flags, hlow]), statusAfter_applyFlags _ hwf⟩⟩⟩

/-! ### The frame of the skips -/

/-- `t` is `u`, or `u` with the next instruction skipped. -/
def MaySkip (u t : State) : Prop := t = u ∨ t = skip u

section

variable {i : Instr} {f : FileAddr} {s u t : State} {op : Byte → Byte × FlagWrites}

theorem maySkip_ite (p : Prop) [Decidable p] (u : State) : MaySkip u (if p then skip u else u) := by
  split
  · exact .inr rfl
  · exact .inl rfl

/-- The program counter goes on or skips one instruction. -/
theorem MaySkip.pc_eq (h : MaySkip u t) (hpc : u.pc = s.pc) : t.pc = s.pc ∨ t.pc = s.pc + 1#13 := by
  rcases h with rfl | rfl
  · exact .inl hpc
  · exact .inr (by rw [skip_pc, hpc])

/-- DECFSZ and INCFSZ with destination F, but for the form that names PCL, write the register and may skip. -/
theorem wroteFile_of_skipOp (h : skipOp f .f op s = .ok t) (hcell : fileCell f s ≠ .pcl)
    (hl : ∀ v, ListedFlags s.params i (op v).2) : ∃ u, WroteFile i f s u ∧ MaySkip u t := by
  rcases skipOp_ok h with ⟨⟨_, hpcl⟩, _⟩ | ⟨_, v, s1, s2, hr, hw, rfl⟩
  · exact absurd hpcl hcell
  · simp only [writeDest, fileWrite, effCell_after_read hr] at hw
    rw [writeCell_eq hw]
    exact ⟨_, .mk (hl v) (readThrough_of_fileRead hr) (op v).1, maySkip_ite _ _⟩

/-- With destination W they write W and may skip. -/
theorem loadedW_of_skipOp (h : skipOp f .w op s = .ok t) (hs : fileSource i = some f)
    (hl : ∀ v, ListedFlags s.params i (op v).2) : ∃ u, LoadedW i s u ∧ MaySkip u t := by
  rcases skipOp_ok h with ⟨⟨hd, _⟩, _⟩ | ⟨_, v, s1, s2, hr, hw, rfl⟩
  · cases hd
  · cases hw
    exact ⟨_, .mk (hl v) (.inr ⟨f, hs, readThrough_of_fileRead hr⟩) (op v).1, maySkip_ite _ _⟩

/-- BTFSC and BTFSS read the register and may skip. -/
theorem readThrough_of_testOp {b : BitPos} {x : Bool} (h : testOp f b x s = .ok t) :
    ∃ u, ReadThrough f s u ∧ MaySkip u t := by
  obtain ⟨v, s1, hr, rfl⟩ := testOp_ok h
  exact ⟨s1, readThrough_of_fileRead hr, maySkip_ite _ _⟩

theorem fileFrame_of_maySkip (h : WroteFile i f s u) (hskip : MaySkip u t) (hwf : s.params.wf = true) :
    FileFrame i f s t ∧ (effCell f s ≠ .pcl → t.pc = s.pc ∨ t.pc = s.pc + 1#13) := by
  refine ⟨?frame, fun hc => hskip.pc_eq (h.pc_eq hc)⟩
  rcases hskip with rfl | rfl <;> exact h.fileFrame hwf

theorem frameToW_of_maySkip (h : LoadedW i s u) (hskip : MaySkip u t) (hs : fileSource i = some f)
    (hwf : s.params.wf = true) :
    t = { s with w := t.w, status := t.status, pc := t.pc, ioLog := t.ioLog, draws := t.draws } ∧
      OtherStatusBits i s t ∧ SameMemory s t ∧ SameIo f s t ∧ (t.pc = s.pc ∨ t.pc = s.pc + 1#13) := by
  have hbits := h.otherStatusBits hwf
  have hio := h.sameIo hs
  obtain ⟨fl, r, n, log, _, rfl⟩ := h.exists_write
  refine ⟨?eq, ?bits, ?memory, ?io, hskip.pc_eq rfl⟩ <;> rcases hskip with rfl | rfl
  case eq.inl | eq.inr => rfl
  case bits.inl | bits.inr => exact hbits
  case memory.inl | memory.inr => exact fun _ => rfl
  case io.inl | io.inr => exact hio

theorem ReadThrough.sameIo (h : ReadThrough f s u) : SameIo f s u := by
  refine ⟨fun hc => ?_, fun name _ => ?_⟩
  · rw [readThrough_eq_self h hc]
    exact ⟨rfl, rfl, rfl⟩
  · obtain ⟨n, log, rfl⟩ := readThrough_eq h
    rfl

theorem frameOfTest_of_maySkip (h : ReadThrough f s u) (hskip : MaySkip u t) :
    t = { s with pc := t.pc, ioLog := t.ioLog, draws := t.draws } ∧ SameMemory s t ∧ SameIo f s t ∧
      (t.pc = s.pc ∨ t.pc = s.pc + 1#13) := by
  have hio := h.sameIo
  obtain ⟨n, log, rfl⟩ := readThrough_eq h
  refine ⟨?eq, ?memory, ?io, hskip.pc_eq rfl⟩ <;> rcases hskip with rfl | rfl
  case eq.inl | eq.inr => rfl
  case memory.inl | memory.inr => exact fun _ => rfl
  case io.inl | io.inr => exact hio

end

/-- Settles O39: a skip moves the program counter alone, after what the instruction wrote. -/
theorem frameOfSkips : Obligations.FrameOfSkips := by
  intro f b s t hwf
  simp only [List.forall_mem_cons, List.not_mem_nil, false_implies, implies_true, and_true]
  refine ⟨⟨fun h hc => ?decF, fun h hc => ?incF⟩, ⟨fun h => ?decW, fun h => ?incW⟩, fun h => ?clear, fun h => ?set⟩
  case decF =>
    obtain ⟨u, hu, hskip⟩ := wroteFile_of_skipOp (toOutcome_next h) hc fun _ => listedFlags_noFlags _ _
    exact fileFrame_of_maySkip hu hskip hwf
  case incF =>
    obtain ⟨u, hu, hskip⟩ := wroteFile_of_skipOp (toOutcome_next h) hc fun _ => listedFlags_incfsz _ f .f _
    exact fileFrame_of_maySkip hu hskip hwf
  case decW =>
    obtain ⟨u, hu, hskip⟩ := loadedW_of_skipOp (i := .decfsz f .w) (toOutcome_next h) rfl
      fun _ => listedFlags_noFlags _ _
    exact frameToW_of_maySkip hu hskip rfl hwf
  case incW =>
    obtain ⟨u, hu, hskip⟩ := loadedW_of_skipOp (i := .incfsz f .w) (toOutcome_next h) rfl
      fun _ => listedFlags_incfsz _ f .w _
    exact frameToW_of_maySkip hu hskip rfl hwf
  case clear | set =>
    obtain ⟨u, hu, hskip⟩ := readThrough_of_testOp (toOutcome_next h)
    exact frameOfTest_of_maySkip hu hskip

end Sys2Proof.Machine

/-! SUPPORT. Repeated execution: a form whose effect on a general-purpose cell and C repeats is an iterate of its effect. -/

namespace Sys2Proof.Machine

open Sys2Proof.Claims

/-! ### An instruction executed again and again -/

/-- Where an instruction takes each state of a family to the state that `g` says, `k` executions iterate `g`. -/
theorem execTimes_iterate {α : Type} {i : Instr} {state : α → State} {g : α → α}
    (h : ∀ a, exec i (state a) = .next (state (g a))) (k : Nat) (a : α) :
    execTimes k i (state a) = .next (state (g^[k] a)) := by
  induction k generalizing a with
  | zero => rfl
  | succ k ih => simp only [execTimes, h, ih, Function.iterate_succ_apply]

/-! ### Writing twice, and writing what stands there -/

theorem insertAt_insertAt {α : Type} (a : Nat) (v v' : α) (l : List (Nat × α)) :
    insertAt a v' (insertAt a v l) = insertAt a v' l := by
  induction l with
  | nil => simp [insertAt]
  | cons e rest ih =>
    obtain ⟨b, x⟩ := e
    rcases lt_trichotomy a b with hlt | rfl | hgt
    · simp [insertAt, hlt]
    · simp [insertAt]
    · simp [insertAt, hgt.not_gt, hgt.ne', ih]

theorem insertAt_of_lookupAt {α : Type} {lo a : Nat} {v : α} {l : List (Nat × α)} (hl : risingFrom lo l = true)
    (h : lookupAt a l = some v) : insertAt a v l = l := by
  induction l generalizing lo with
  | nil => cases h
  | cons e rest ih =>
    obtain ⟨b, x⟩ := e
    simp only [risingFrom, Bool.and_eq_true, decide_eq_true_eq] at hl
    obtain ⟨_, hrest⟩ := hl
    rcases lt_trichotomy a b with hlt | rfl | hgt
    · simp only [lookupAt, hlt.ne, if_false, lookupAt_below (Nat.lt_succ_of_lt hlt) rest hrest] at h
      cases h
    · simp only [lookupAt, if_true, Option.some.injEq] at h
      simp [insertAt, h]
    · simp only [lookupAt, hgt.ne', if_false] at h
      simp [insertAt, hgt.not_gt, hgt.ne', ih hrest h]

/-- In canonical RAM a write of the value held changes nothing. -/
theorem writeGpr_self {n : Nat} {v : Byte} {s : State} (hram : s.ram.wf s.params.fileMap.ramCells = true)
    (hload : s.ram.load n = some v) : writeGpr n v s = s := by
  simp only [Memory.wf, Bool.and_eq_true] at hram
  obtain ⟨hrising, _⟩ := hram
  rw [writeGpr, Memory.store, insertAt_of_lookupAt hrising hload]

theorem writeGpr_writeGpr (n : Nat) (v v' : Byte) (s : State) : writeGpr n v' (writeGpr n v s) = writeGpr n v' s := by
  simp only [writeGpr, Memory.store, insertAt_insertAt]

theorem setBit_setBit (v : Byte) (i : Nat) (b b' : Bool) : setBit (setBit v i b) i b' = setBit v i b' := by
  ext j hj
  simp only [setBit_getElem]
  split <;> rfl

theorem setBit_self (v : Byte) (i : Nat) : setBit v i (v.getLsbD i) = v := by
  ext j hj
  rw [setBit_getElem]
  split
  · next h => rw [h, BitVec.getLsbD_eq_getElem hj]
  · rfl

/-! ### A general-purpose cell and C -/

/-- `s` with `p`'s byte in cell `n` and `p`'s bit in C. -/
def withCellCarry (n : Nat) (s : State) (p : Byte × Bool) : State := applyFlags (cFlag p.2) (writeGpr n p.1 s)

section

variable {f : FileAddr} {n : Nat} {v : Byte} {s : State}

/-- An operand's cell depends on bits 7 to 5 of STATUS, FSR and the parameters only (R34). -/
theorem effCell_congr_bank {t : State} (hbank : ∀ j, 5 ≤ j → t.status.getLsbD j = s.status.getLsbD j)
    (hfsr : t.fsr = s.fsr) (hparams : t.params = s.params) : effCell f t = effCell f s := by
  have hfield : t.status.extractLsb' 5 3 = s.status.extractLsb' 5 3 := by
    ext j hj
    simp only [BitVec.getElem_extractLsb', hbank (5 + j) (by omega)]
  have hcell : fileCell f t = fileCell f s := by
    simp only [fileCell, hparams, Config.statusRP0, hbank 5 (le_refl 5), hfield]
  simp only [effCell, hcell, indirectCell, hfsr, hparams]

theorem effCell_withCellCarry (p : Byte × Bool) : effCell f (withCellCarry n s p) = effCell f s := by
  refine effCell_congr_bank (fun j hj => ?_) rfl rfl
  have hne : s.params.statusC.val ≠ j := by omega
  simp only [withCellCarry, applyFlags_status, cFlag, putFlag, writeGpr_params, writeGpr_status, setBit_getLsbD, hne,
    false_and, if_false]

theorem load_withCellCarry (p : Byte × Bool) : (withCellCarry n s p).ram.load n = some p.1 :=
  Memory.load_store_self s.ram n p.1

theorem flagC_withCellCarry (p : Byte × Bool) : flagC (withCellCarry n s p) = p.2 := by
  have hlt : s.params.statusC.val < 8 := by omega
  simp only [flagC, withCellCarry, applyFlags_params, applyFlags_status, cFlag, putFlag, writeGpr_params, setBit_getLsbD,
    hlt, and_self, if_true]

/-- The last write counts. -/
theorem withCellCarry_withCellCarry (p q : Byte × Bool) :
    withCellCarry n (withCellCarry n s p) q = withCellCarry n s q := by
  simp only [withCellCarry, applyFlags, writeGpr, cFlag, putFlag, Memory.store, insertAt_insertAt, setBit_setBit]

/-- What `s` holds already. -/
theorem withCellCarry_self (hram : s.ram.wf s.params.fileMap.ramCells = true) (hload : s.ram.load n = some v) :
    withCellCarry n s (v, flagC s) = s := by
  simp only [withCellCarry, writeGpr_self hram hload, applyFlags, cFlag, putFlag, flagC, setBit_self]

/-- The template of R110 with destination F, on a general-purpose cell that holds a value. -/
theorem byteOp_of_gpr (hcell : effCell f s = .gpr n) (hload : s.ram.load n = some v)
    (op : Byte → Byte → Bool → Byte × FlagWrites) :
    byteOp f .f op s = .ok (applyFlags (op v s.w (flagC s)).2 (writeGpr n (op v s.w (flagC s)).1 s)) := by
  have hread : fileRead f s = .ok (v, s) := (fileRead_of_gpr hcell).trans (readGpr_of_written hload)
  rw [byteOp_eq_of_read hread]
  simp only [writeResult, writeDest, fileWrite_of_gpr hcell]

end

/-! ### The nine-bit rotations -/

/-- What RLF does to the register and C (R124). -/
def rlfStep (p : Byte × Bool) : Byte × Bool := (rotateLeft p.1 p.2, p.1.getLsbD 7)

/-- What RRF does to the register and C (R125). -/
def rrfStep (p : Byte × Bool) : Byte × Bool := (rotateRight p.1 p.2, p.1.getLsbD 0)

theorem rotateLeft_getLsbD (v : Byte) (cin : Bool) {j : Nat} (hj : j < 8) :
    (rotateLeft v cin).getLsbD j = if j = 0 then cin else v.getLsbD (j - 1) := by
  rw [rotateLeft, BitVec.getLsbD_append, BitVec.getLsbD_extractLsb', Nat.zero_add]
  by_cases h : j = 0
  · simp [h]
  · have hpred : j - 1 < 7 := by omega
    simp [h, hpred]

theorem rotateRight_getLsbD (v : Byte) (cin : Bool) {j : Nat} (hj : j < 8) :
    (rotateRight v cin).getLsbD j = if j = 7 then cin else v.getLsbD (j + 1) := by
  rw [rotateRight, BitVec.getLsbD_append, BitVec.getLsbD_extractLsb', Nat.add_comm 1 j]
  by_cases h : j = 7
  · simp [h]
  · have hlow : j < 7 := by omega
    simp [h, hlow]

/-- Bit `j` of the register, C being bit 8. -/
def nineBit (p : Byte × Bool) (j : Nat) : Bool := if j = 8 then p.2 else p.1.getLsbD j

theorem eq_of_nineBit_eq {p q : Byte × Bool} (h : ∀ j, j < 9 → nineBit p j = nineBit q j) : p = q := by
  refine Prod.ext (BitVec.eq_of_getLsbD_eq fun j hj => ?_) (h 8 (by omega))
  have hne : j ≠ 8 := by omega
  simpa only [nineBit, if_neg hne] using h j (by omega)

/-- RLF moves every one of the nine bits one place up, bit 8 to bit 0. -/
theorem nineBit_rlfStep (p : Byte × Bool) {j : Nat} (hj : j < 9) :
    nineBit (rlfStep p) j = nineBit p ((j + 8) % 9) := by
  rcases Nat.eq_zero_or_pos j with rfl | hpos
  · exact rotateLeft_getLsbD p.1 p.2 (by omega)
  · have hplace : (j + 8) % 9 = j - 1 := by omega
    have hne : j - 1 ≠ 8 := by omega
    rw [hplace, nineBit, nineBit, if_neg hne]
    split
    · next h => rw [h]; rfl
    · next h => rw [rlfStep, rotateLeft_getLsbD _ _ (by omega), if_neg hpos.ne']

theorem nineBit_iterate_rlfStep (k : Nat) (p : Byte × Bool) {j : Nat} (hj : j < 9) :
    nineBit (rlfStep^[k] p) j = nineBit p ((j + 8 * k) % 9) := by
  induction k generalizing j with
  | zero => simp [Nat.mod_eq_of_lt hj]
  | succ k ih =>
    rw [Function.iterate_succ_apply', nineBit_rlfStep _ hj, ih (Nat.mod_lt _ (by omega))]
    congr 1
    omega

theorem rlfStep_iterate_nine (p : Byte × Bool) : rlfStep^[9] p = p := by
  refine eq_of_nineBit_eq fun j hj => ?_
  rw [nineBit_iterate_rlfStep 9 p hj]
  congr 1
  omega

/-- RRF takes back what RLF did. -/
theorem rrfStep_leftInverse : Function.LeftInverse rrfStep rlfStep := by
  intro p
  refine Prod.ext (BitVec.eq_of_getLsbD_eq fun j hj => ?_) (rotateLeft_getLsbD p.1 p.2 (by omega))
  rw [rrfStep, rlfStep, rotateRight_getLsbD _ _ hj]
  split
  · next h => rw [h]
  · next h => rw [rotateLeft_getLsbD _ _ (by omega), if_neg j.succ_ne_zero, Nat.add_sub_cancel]

theorem rrfStep_iterate_nine (p : Byte × Bool) : rrfStep^[9] p = p := by
  have hinverse := rrfStep_leftInverse.iterate 9 p
  rwa [rlfStep_iterate_nine] at hinverse

theorem swapNibbles_swapNibbles (v : Byte) : swapNibbles (swapNibbles v) = v := by
  have hlow : (swapNibbles v).extractLsb' 0 4 = v.extractLsb' 4 4 := BitVec.extractLsb'_append_eq_right
  have hhigh : (swapNibbles v).extractLsb' 4 4 = v.extractLsb' 0 4 := BitVec.extractLsb'_append_eq_left
  rw [swapNibbles, hlow, hhigh]
  exact BitVec.extractLsb'_append_extractLsb'

/-! ### The obligations on repeated execution -/

/-- A form whose result and C are those of `g`, executed again and again on a general-purpose cell. -/
theorem execTimes_of_cellCarry {f : FileAddr} {n : Nat} {v : Byte} {s : State} {i : Instr}
    {op : Byte → Byte → Bool → Byte × FlagWrites} {g : Byte × Bool → Byte × Bool}
    (hexec : ∀ t, exec i t = toOutcome (byteOp f .f op t)) (hop : ∀ p w, op p.1 w p.2 = ((g p).1, cFlag (g p).2))
    (hcell : effCell f s = .gpr n) (hram : s.ram.wf s.params.fileMap.ramCells = true) (hload : s.ram.load n = some v)
    (k : Nat) : execTimes k i s = .next (withCellCarry n s (g^[k] (v, flagC s))) := by
  have hstep (p : Byte × Bool) : exec i (withCellCarry n s p) = .next (withCellCarry n s (g p)) := by
    have hcell' : effCell f (withCellCarry n s p) = .gpr n := (effCell_withCellCarry p).trans hcell
    rw [hexec, byteOp_of_gpr hcell' (load_withCellCarry p), flagC_withCellCarry, hop, toOutcome]
    exact congrArg _ (withCellCarry_withCellCarry p (g p))
  simpa only [withCellCarry_self hram hload] using execTimes_iterate hstep k (v, flagC s)

/-- Settles O56: the nine-bit rotation has order nine. -/
theorem nineRotationsRestore : Obligations.NineRotationsRestore := by
  intro f n v s hcell hram hload
  refine ⟨?left, ?right⟩
  case left =>
    rw [execTimes_of_cellCarry (g := rlfStep) (fun _ => rfl) (fun _ _ => rfl) hcell hram hload,
      rlfStep_iterate_nine, withCellCarry_self hram hload]
  case right =>
    rw [execTimes_of_cellCarry (g := rrfStep) (fun _ => rfl) (fun _ _ => rfl) hcell hram hload,
      rrfStep_iterate_nine, withCellCarry_self hram hload]

/-- Settles O57: the exchange of the nibbles undoes itself. -/
theorem twoSwapsRestore : Obligations.TwoSwapsRestore := by
  intro f n v s hcell hram hload
  have hstep (u : Byte) : exec (.swapf f .f) (writeGpr n u s) = .next (writeGpr n (swapNibbles u) s) := by
    rw [exec, execSwapf, byteOp_of_gpr ((effCell_writeGpr f n u s).trans hcell) (Memory.load_store_self s.ram n u),
      toOutcome, applyFlags_noFlags, writeGpr_writeGpr]
  have htwice := execTimes_iterate hstep 2 v
  rw [Function.iterate_succ_apply, Function.iterate_one, swapNibbles_swapNibbles, writeGpr_self hram hload] at htwice
  exact htwice

end Sys2Proof.Machine

/-! SUPPORT. The results of the bit-oriented instructions: the bit that is changed, the skip on a bit, words and cycles. -/

namespace Sys2Proof.Machine

open Sys2Proof.Claims

/-! ### The bit -/

/-- BCF's mask clears bit `b` (R141). -/
theorem and_not_bitMask_eq_setBit (v : Byte) (b : BitPos) : v &&& ~~~bitMask b = setBit v b.toNat false := rfl

/-- BSF's mask sets bit `b` (R142). -/
theorem or_bitMask_eq_setBit (v : Byte) (b : BitPos) : v ||| bitMask b = setBit v b.toNat true := rfl

theorem setBit_getLsbD_of_lt (v : Byte) (i : Nat) (x : Bool) {j : Nat} (hj : j < 8) :
    (setBit v i x).getLsbD j = if j = i then x else v.getLsbD j := by
  simp only [setBit_getLsbD, hj, and_true, eq_comm]

theorem clearBit_getLsbD (v : Byte) (i : Nat) {j : Nat} (hj : j < 8) :
    (setBit v i false).getLsbD j = (decide (j ≠ i) && v.getLsbD j) := by
  rw [setBit_getLsbD_of_lt v i false hj, Bool.if_false_left, decide_not]

theorem raiseBit_getLsbD (v : Byte) (i : Nat) {j : Nat} (hj : j < 8) :
    (setBit v i true).getLsbD j = (decide (j = i) || v.getLsbD j) := by
  rw [setBit_getLsbD_of_lt v i true hj, Bool.if_true_left]

section

variable {i : Instr} {f : FileAddr} {b : BitPos} {s s1 : State} {v : Byte}

/-! ### Where the operand can be read -/

/-- The changed register can be written back (R140). -/
theorem bitOp_of_read (hread : fileRead f s = .ok (v, s1)) (op : Byte → Byte) :
    ∃ t, fileWrite noFlags f (op v) s1 = .ok t ∧ bitOp f op s = .ok t := by
  obtain ⟨t, hw⟩ := writeDest_after_read hread noFlags .f (op v)
  exact ⟨t, hw, by simp only [bitOp, hread]; exact hw⟩

/-- The test writes nothing: the state that the read left, or that state with the next instruction skipped (R140). -/
theorem testOp_of_read (hread : fileRead f s = .ok (v, s1)) (b : BitPos) (x : Bool) :
    testOp f b x s = .ok (if v.getLsbD b.toNat = x then skip s1 else s1) := by
  simp only [testOp, hread]

theorem btfsc_of_read (hread : fileRead f s = .ok (v, s1)) (b : BitPos) :
    exec (.btfsc f b) s = .next (if v.getLsbD b.toNat then s1 else skip s1) := by
  rw [exec, execBtfsc, testOp_of_read hread, toOutcome]
  cases v.getLsbD b.toNat <;> rfl

theorem btfss_of_read (hread : fileRead f s = .ok (v, s1)) (b : BitPos) :
    exec (.btfss f b) s = .next (if v.getLsbD b.toNat then skip s1 else s1) := by
  rw [exec, execBtfss, testOp_of_read hread, toOutcome]

/-! ### Words and cycles -/

/-- BCF and BSF, which always write the register back. -/
theorem codedWithFile_bit (hi : i = .bcf f b ∨ i = .bsf f b) : CodedWithFile i (encode i) True f := by
  rcases hi with rfl | rfl <;>
    exact codedWithFile_of_fileDest (decodeOfEncode _ rfl) (fun _ _ => rfl) fun g => by simp [fileDest, eq_comm]

theorem fileRead_pc (hread : fileRead f s = .ok (v, s1)) : s1.pc = s.pc := by rw [readCell_same hread]

/-- A skip moves the program counter, so that the cycle count sees it (R215). -/
theorem skip_pc_ne (s : State) : (skip s).pc ≠ s.pc := by
  rw [skip_pc]
  bv_omega

/-- The cycles of a test by its skip: 1 where it is not taken, 2 where it is (R143, R144). -/
theorem cycles_test (hi : i = .btfsc f b ∨ i = .btfss f b) (hread : fileRead f s = .ok (v, s1)) :
    cycles i s s1 = 1 ∧ cycles i s (skip s1) = 2 := by
  have hcycles (t : State) : cycles i s t = if t.pc = s1.pc then 1 else 2 := by
    rw [fileRead_pc hread]
    rcases hi with rfl | rfl <;> rfl
  exact ⟨by rw [hcycles, if_pos rfl], by rw [hcycles, if_neg (skip_pc_ne s1)]⟩

end

/-! ### The obligations on the bit-oriented instructions -/

/-- Settles O29: the register is written back with the bit of the mask changed. -/
theorem bitClearSetResult : Obligations.BitClearSetResult := by
  refine ⟨fun f b => ⟨codedWithFile_bit (.inl rfl), codedWithFile_bit (.inr rfl)⟩,
    fun f b s s1 v hread => ⟨?clear, ?set⟩⟩
  case clear =>
    obtain ⟨t, hwrite, hop⟩ := bitOp_of_read hread fun v => v &&& ~~~bitMask b
    rw [and_not_bitMask_eq_setBit] at hwrite
    exact ⟨_, t, fun _ => clearBit_getLsbD v b.toNat, hwrite, by rw [exec, execBcf, hop, toOutcome]⟩
  case set =>
    obtain ⟨t, hwrite, hop⟩ := bitOp_of_read hread fun v => v ||| bitMask b
    rw [or_bitMask_eq_setBit] at hwrite
    exact ⟨_, t, fun _ => raiseBit_getLsbD v b.toNat, hwrite, by rw [exec, execBsf, hop, toOutcome]⟩

/-- Settles O30: the test leaves the state of the read, or skips from it. -/
theorem bitTestResult : Obligations.BitTestResult := by
  refine ⟨fun f b => ⟨decodeOfEncode (.btfsc f b) rfl, decodeOfEncode (.btfss f b) rfl⟩, fun f b s s1 v hread => ?_⟩
  obtain ⟨hclear, hclearSkip⟩ := cycles_test (b := b) (.inl rfl) hread
  obtain ⟨hset, hsetSkip⟩ := cycles_test (b := b) (.inr rfl) hread
  exact ⟨hclear, hclearSkip, hset, hsetSkip, btfsc_of_read hread b, btfss_of_read hread b⟩

end Sys2Proof.Machine

/-! SUPPORT. ADDLW and SUBLW; what the returns and CALL do, by what `pop` and `push` can do; the frames of the literal
instructions and of the transfers. -/

namespace Sys2Proof.Machine

open Sys2Proof.Claims

/-! ### W and the three arithmetic flags -/

/-- An arithmetic result in W with C, DC and Z (R150). -/
theorem next_of_writeW_aluFlags {i : Instr} {s : State} {x : AluResult} {r : Byte} {c dc z : Bool}
    (hwf : s.params.wf = true) (hexec : exec i s = .next (writeW x.r (aluFlags x) s)) (hx : x = ⟨r, c, dc, z⟩) :
    ∃ t, exec i s = .next t ∧ StatusAfter (some c) (some dc) (some z) { s with w := r } t := by
  subst hx
  exact ⟨_, hexec, statusAfter_applyFlags (s := { s with w := r }) _ hwf⟩

/-- Settles O31: W by the template of R150 with `Add8` and `Sub8` in numbers; the don't-care bits by
`dontCareBitsIgnored`. -/
theorem addlwSublwResult : Obligations.AddlwSublwResult := by
  obtain ⟨_, _, _, _, haddlw, hsublw⟩ := dontCareBitsIgnored
  refine ⟨fun x k => ⟨⟨haddlw x k, fun _ _ => rfl⟩, ⟨hsublw x k, fun _ _ => rfl⟩⟩, fun k s hwf => ⟨?add, ?sub⟩⟩
  case add => exact next_of_writeW_aluFlags hwf rfl (add8_eq_ofNat s.w k)
  case sub => exact next_of_writeW_aluFlags hwf rfl (sub8_eq_ofNat k s.w)

/-! ### The frame of the literal instructions -/

section

variable {i : Instr} {s t : State}

/-- A literal instruction or CLRW, which has no file operand and is no return, wrote W. -/
theorem Effect.loadedW_of_noOperand (h : Effect i s t) (hr : fileSource i = none) (hd : fileDest i = none)
    (hw : writesW i) (hs : canSkip i = false) (hret : ∀ k, i ≠ .retlw k) : LoadedW i s t := by
  cases h with
  | loaded _ _ h' => exact h'
  | wrote hd' => cases hd.symm.trans hd'
  | tested _ hw' => exact absurd hw hw'
  | skipped hc | contested hc => cases hs.symm.trans hc
  | retlw => exact absurd rfl (hret _)
  | ret | retfie | call | goto | clrwdt | option | sleep | tris => exact hw.elim

/-- Where there is no operand to read, a write of W changes W and STATUS alone. -/
theorem LoadedW.eq_of_noOperand (h : LoadedW i s t) (hr : fileSource i = none) :
    t = { s with w := t.w, status := t.status } := by
  obtain @⟨fl, s1, _, hread, r⟩ := h
  rcases hread with rfl | ⟨f, hf, _⟩
  · rfl
  · cases hr.symm.trans hf

end

/-- Settles O40: each of the seven instructions wrote W without a read. -/
theorem frameOfLiterals : Obligations.FrameOfLiterals := by
  intro k i hi s t hwf h
  obtain ⟨hr, hd, hw, hs, hret⟩ :
      fileSource i = none ∧ fileDest i = none ∧ writesW i ∧ canSkip i = false ∧ ∀ k', i ≠ .retlw k' := by
    revert i; simp [fileSource, fileDest, writesW, canSkip]
  have hload := (exec_effect h).loadedW_of_noOperand hr hd hw hs hret
  have heq := hload.eq_of_noOperand hr
  have hsame : SameMemory s t := by rw [heq]; exact fun _ => rfl
  exact ⟨heq, hload.otherStatusBits hwf, hsame⟩

/-! ### The returns and CALL -/

section

variable {s t : State}

theorem popPc_of_held {a : Addr13} {rest : List Addr13} (h : s.stack = a :: rest) :
    popPc s = .ok { s with pc := a, stack := rest } := by
  simp only [popPc, pop, h]

theorem popPc_of_empty_verdict (h : s.stack = []) (ht : s.params.treatment = .verdict) :
    popPc s = .error .stackUnderflow := by
  simp only [popPc, pop, h, ht]

theorem popPc_of_empty_hardware (h : s.stack = []) (ht : s.params.treatment = .hardware) :
    popPc s = .ok { s with pc := Config.staleReturn s.draws, draws := s.draws + 1 } := by
  simp only [popPc, pop, h, ht]

theorem interruptReturn_eq_map (s : State) : interruptReturn s = (popPc s).map (setGie true) := by
  rw [interruptReturn]
  cases popPc s <;> rfl

/-- The three returns are `pc <- Pop()`, with W written before it or GIE after it (R163, R157, R162). -/
theorem exec_return_of_popPc (k : Byte) {x y : Except Fault State} (hs : popPc s = x) (hw : popPc { s with w := k } = y) :
    exec .ret s = toOutcome x ∧ exec (.retlw k) s = toOutcome y ∧
      exec .retfie s = toOutcome (x.map (setGie true)) := by
  subst hs hw
  refine ⟨rfl, rfl, ?_⟩
  rw [exec, execRetfie, interruptReturn_eq_map]

/-- CALL that answers: the push, then the jump (R170). -/
theorem exec_call_next {k : Addr11} (h : exec (.call k) s = .next t) :
    ∃ u, push s.pc s = .ok u ∧ t = { u with pc := jumpTarget k u } := by
  rw [exec, execCall] at h
  cases hp : push s.pc s with
  | error e => rw [hp] at h; cases h
  | ok u => rw [hp] at h; cases h; exact ⟨u, rfl, rfl⟩

/-- A return from a held entry draws nothing. -/
theorem popPc_draws (h : popPc s = .ok t) (hs : s.stack ≠ []) : t.draws = s.draws := by
  rcases popPc_ok h with ⟨a, rest, _, rfl⟩ | ⟨hempty, _⟩
  · rfl
  · exact absurd hempty hs

end

/-- Settles O33: the three cases of `pop`; the don't-care bits of RETLW by `dontCareBitsIgnored`. -/
theorem returnsResult : Obligations.ReturnsResult := by
  obtain ⟨_, _, _, hretlw, _⟩ := dontCareBitsIgnored
  refine ⟨codedAs_encode rfl fun _ _ => rfl, codedAs_encode rfl fun _ _ => rfl, fun x k => ⟨hretlw x k, fun _ _ => rfl⟩,
    fun a rest k s hs => ?held, fun k s hs ht => ?verdict, fun k s hs ht => ⟨Config.staleReturn s.draws, ?hardware⟩⟩
  case held => exact exec_return_of_popPc k (popPc_of_held hs) (popPc_of_held hs)
  case verdict => exact exec_return_of_popPc k (popPc_of_empty_verdict hs ht) (popPc_of_empty_verdict hs ht)
  case hardware => exact exec_return_of_popPc k (popPc_of_empty_hardware hs ht) (popPc_of_empty_hardware hs ht)

/-- Settles O41: what a push and a pop change, and GIE alone of INTCON. -/
theorem frameOfTransfers : Obligations.FrameOfTransfers := by
  intro k a s t
  refine ⟨fun h => ?goto, fun h => ?call, fun h => ?ret, fun h => ?retlw, fun h => ?retfie, ?draws⟩
  case goto =>
    cases h
    exact ⟨rfl, fun _ => rfl⟩
  case call =>
    obtain ⟨u, hp, rfl⟩ := exec_call_next h
    obtain ⟨st, rfl⟩ := push_eq hp
    exact ⟨rfl, fun _ => rfl⟩
  case ret | retlw =>
    obtain ⟨pc, st, n, rfl⟩ := popPc_eq (toOutcome_next h)
    exact ⟨rfl, fun _ => rfl⟩
  case retfie =>
    obtain ⟨u, hp, rfl⟩ := interruptReturn_ok (toOutcome_next h)
    obtain ⟨pc, st, n, rfl⟩ := popPc_eq hp
    refine ⟨rfl, fun j hj => ?_, fun _ => rfl⟩
    rw [setGie_bit, if_neg hj]
  case draws =>
    simp only [List.forall_mem_cons, List.not_mem_nil, false_implies, implies_true, and_true]
    refine ⟨fun h hs => ?_, fun h hs => ?_, fun h hs => ?_⟩
    · exact popPc_draws (toOutcome_next h) hs
    · exact popPc_draws (s := { s with w := k }) (toOutcome_next h) hs
    · obtain ⟨u, hp, rfl⟩ := interruptReturn_ok (toOutcome_next h)
      rw [setGie_draws, popPc_draws hp hs]

end Sys2Proof.Machine

/-! SUPPORT. TRIS: when it answers, and what it then writes; the frame of the control instructions. -/

namespace Sys2Proof.Machine

open Sys2Proof.Claims

/-! ### TRIS (R165) -/

section

variable {f : BitVec 3} {name : IoName} {s t : State}

theorem exec_tris_verdict (ht : s.params.treatment = .verdict) : exec (.tris f) s = .fault .unmodelledForm := by
  simp only [exec, execTris, ht]

theorem exec_tris_hardware (ht : s.params.treatment = .hardware) (hf : trisRegister f = some name) :
    exec (.tris f) s = .next (ioWrite name s.w s) := by
  simp only [exec, execTris, ht, hf]

/-- TRIS that answers has written W to the register that its operand names: of the two columns of R181 only the
hardware's answers. -/
theorem exec_tris_next (h : exec (.tris f) s = .next t) :
    ∃ name, trisRegister f = some name ∧ t = ioWrite name s.w s := by
  cases ht : s.params.treatment with
  | verdict => cases (exec_tris_verdict ht).symm.trans h
  | hardware =>
    cases hf : trisRegister f with
    | none => simp only [exec, execTris, ht, hf, reduceCtorEq] at h
    | some name => cases (exec_tris_hardware ht hf).symm.trans h; exact ⟨name, rfl, rfl⟩

theorem exec_tris_wroteIo (ht : s.params.treatment = .hardware) (hf : trisRegister f = some name) :
    ∃ t, exec (.tris f) s = .next t ∧ WroteIo name s.w s t :=
  ⟨_, exec_tris_hardware ht hf, ioWrite_wroteIo name s.w s⟩

end

/-- Settles O36: the fault in one treatment, the write of W in the other; the three words by `decodeOfEncode`. -/
theorem trisResult : Obligations.TrisResult := by
  refine ⟨codedAs_encode rfl fun _ _ => rfl, codedAs_encode rfl fun _ _ => rfl, codedAs_encode rfl fun _ _ => rfl,
    fun s => ⟨fun ht f => ?verdict, fun ht => ⟨?trisa, ?trisb, ?trisc⟩⟩⟩
  case verdict => exact exec_tris_verdict ht
  case trisa | trisb | trisc => exact exec_tris_wroteIo ht rfl

/-! ### The frame of the controls -/

/-- `setToPd` changes TO and PD alone, whatever their positions. -/
theorem setToPd_sameButToPd (a b : Bool) (s : State) : SameButToPd s (setToPd a b s) := by
  intro j hTO hPD
  rw [setToPd_bit, if_neg hPD, if_neg hTO]

/-- Settles O42: CLRWDT and SLEEP change STATUS by `setToPd` alone; TRIS is a write of a platform cell. -/
theorem frameOfControls : Obligations.FrameOfControls := by
  intro f s t
  refine ⟨fun h => ?clrwdt, fun h => ?sleep, fun h => ?option, fun h => ?nop, fun h => ?tris⟩
  case clrwdt =>
    cases h
    exact ⟨rfl, setToPd_sameButToPd true true { s with wdt := 0, wdtPrescaler := 0 }, fun _ => rfl⟩
  case sleep =>
    cases h
    exact ⟨rfl, setToPd_sameButToPd true false { s with wdt := 0, wdtPrescaler := 0 }, fun _ => rfl⟩
  case option =>
    cases h
    exact ⟨rfl, fun _ => rfl⟩
  case nop =>
    cases h
    rfl
  case tris =>
    obtain ⟨name, _, rfl⟩ := exec_tris_next h
    obtain ⟨_, hlevels, _⟩ := ioWrite_wroteIo name s.w s
    exact ⟨rfl, hlevels, fun _ => rfl⟩

end Sys2Proof.Machine

/-! SUPPORT. CALL and GOTO: the target in numbers, CALL by what `push` does; the round trip of CALL and a return. -/

namespace Sys2Proof.Machine

open Sys2Proof.Claims

/-! ### CALL and GOTO (R170, R171) -/

section

variable {k : Addr11} {s : State}

theorem jumpTarget_toNat (k : Addr11) (s : State) : (jumpTarget k s).toNat = s.pclath.toNat / 8 * 2048 + k.toNat := by
  have hpclath : s.pclath.toNat < 32 := s.pclath.isLt
  rw [jumpTarget, append_toNat, extractLsb'_toNat_eq_div_mod]
  omega

theorem jumpTarget_eq {a : Addr13} (h : a.toNat = s.pclath.toNat / 8 * 2048 + k.toNat) : jumpTarget k s = a :=
  BitVec.eq_of_toNat_eq ((jumpTarget_toNat k s).trans h.symm)

/-- A push changes the stack alone, so CALL jumps by the PCLATH from before it. -/
theorem exec_call_of_push {st : List Addr13} (h : push s.pc s = .ok { s with stack := st }) :
    exec (.call k) s = .next { s with pc := jumpTarget k s, stack := st } := by
  rw [exec, execCall, h]
  rfl

theorem exec_call_of_push_error {e : Fault} (h : push s.pc s = .error e) : exec (.call k) s = .fault e := by
  rw [exec, execCall, h]

end

/-- Settles O34: the jump target in numbers, and CALL by the three cases of `push` (`stackDiscipline`). -/
theorem callGotoResult : Obligations.CallGotoResult := by
  obtain ⟨hroom, hverdict, hhardware, _⟩ := stackDiscipline
  refine ⟨fun k => ⟨codedAs_encode rfl fun _ _ => rfl, codedAs_encode rfl fun _ _ => rfl⟩, fun k s a ha => ?_⟩
  obtain rfl := jumpTarget_eq ha
  refine ⟨rfl, fun h => ?room, fun h ht => ?fullVerdict, fun hwf h ht => ?fullHardware⟩
  case room => exact exec_call_of_push (hroom s.pc s h)
  case fullVerdict => exact exec_call_of_push_error (hverdict s.pc s h ht)
  case fullHardware => exact exec_call_of_push (hhardware s.pc s hwf h ht)

/-- Settles O58: the return's address is on top of the stack that CALL leaves, so PCLATH plays no part in the return
(R172). -/
theorem callReturnRoundTrip : Obligations.CallReturnRoundTrip := by
  intro k c s hroom
  obtain ⟨hpush, _⟩ := stackDiscipline
  obtain ⟨_, _, _, hreturn, _⟩ := returnsResult
  have htarget := jumpTarget_toNat k s
  have hk : k.toNat < 2048 := k.isLt
  refine ⟨_, exec_call_of_push (hpush s.pc s hroom), ?low, ?page, fun u hu => ?resume⟩
  case low | page => simp only [htarget]; omega
  case resume =>
    obtain ⟨hret, hretlw, _⟩ := hreturn s.pc s.stack c u hu
    exact ⟨hret, hretlw⟩

end Sys2Proof.Machine

/-! SUPPORT. Interrupts, sleep and the watchdog: what an input that a boundary takes leaves, the quiet boundary case by
case, interrupt entry by what `push` does, the bits that a reset keeps. -/

namespace Sys2Proof.Machine

open Sys2Proof.Claims

/-! ### The input that a boundary takes (R183) -/

section

variable {x : PlatformInput} {rest : List PlatformInput} {s u : State}

theorem eq_raiseFlags_of_took (h : Took x rest s u) : u = raiseFlags x { s with inputs := rest } := by
  obtain ⟨_, rfl⟩ := h
  rfl

theorem boundary_of_took (h : Took x rest s u) : boundary s = deliver x { s with inputs := rest } := by
  obtain ⟨hin, _⟩ := h
  exact boundary_of_input hin

theorem boundary_of_took_no_event (h : Took x rest s u) (he : x.event = none) : boundary s = boundaryQuiet u := by
  rw [boundary_of_took h, eq_raiseFlags_of_took h, deliver, he]

theorem boundary_of_took_timeout (h : Took x rest s u) (he : x.event = some .watchdogTimeout) :
    boundary s = boundaryTimeout u := by
  rw [boundary_of_took h, eq_raiseFlags_of_took h, deliver, he]

/-- Once its input is taken, a boundary with no time-out and no reset is the quiet one. -/
theorem boundary_of_arrived (h : Arrived s u) : boundary s = boundaryQuiet u := by
  rcases h with ⟨hin, rfl⟩ | ⟨x, rest, ht, he⟩
  · exact boundary_of_no_input hin
  · exact boundary_of_took_no_event ht he

theorem flagGIE_of_arrived (h : Arrived s u) : flagGIE u = flagGIE s := by
  rcases h with ⟨_, rfl⟩ | ⟨x, rest, ht, _⟩
  · rfl
  · rw [eq_raiseFlags_of_took ht, raiseFlags_flagGIE]
    rfl

/-- A bit of INTCON once an input is taken: set before, or raised, which GIE never is (R184). -/
theorem raiseFlags_intcon_bit (x : PlatformInput) (s : State) (j : Nat) :
    (raiseFlags x s).intcon.getLsbD j =
      (s.intcon.getLsbD j || (x.flags.getLsbD j && decide (s.params.intconGIE.val ≠ j))) := by
  by_cases hj : j < 8
  · simp only [raiseFlags_intcon, BitVec.getLsbD_or, BitVec.getLsbD_and, BitVec.getLsbD_not,
      oneBit_getLsbD s.params.intconGIE.isLt, hj, decide_true, Bool.true_and, decide_not]
  · simp only [BitVec.getLsbD_of_ge _ j (Nat.le_of_not_lt hj), Bool.false_and, Bool.or_false]

/-- The flags that rise are REF84's bits T0IF, INTF and RBIF. -/
theorem PlatformInput.flags_bits (x : PlatformInput) :
    x.flags.getLsbD 2 = x.timer0Overflow ∧ x.flags.getLsbD 1 = x.externalInterrupt ∧
      x.flags.getLsbD 0 = x.portBChange := by
  rw [PlatformInput.flags]
  generalize x.timer0Overflow = t0, x.externalInterrupt = int, x.portBChange = rb
  revert t0 int rb
  decide

end

/-! ### The quiet boundary, case by case (R186, R194, R195) -/

section

variable {s s1 : State}

theorem boundaryQuiet_wakes (ha : s.asleep = true) (hi : irq s = true) :
    boundaryQuiet s = .proceed { s with asleep := false } := by
  simp only [boundaryQuiet, ha, hi, if_true]

theorem boundaryQuiet_sleepsOn (ha : s.asleep = true) (hi : irq s = false) : boundaryQuiet s = .settled s := by
  simp only [boundaryQuiet, ha, hi, if_true, Bool.false_eq_true, if_false]

theorem boundaryQuiet_of_entry (ha : s.asleep = false) (hp : interruptPending s = true)
    (he : interruptEntry s = .ok s1) : boundaryQuiet s = .proceed s1 := by
  simp only [boundaryQuiet, ha, hp, he, if_true, Bool.false_eq_true, if_false]

theorem boundaryQuiet_of_entry_error {e : Fault} (ha : s.asleep = false) (hp : interruptPending s = true)
    (he : interruptEntry s = .error e) : boundaryQuiet s = .stop e := by
  simp only [boundaryQuiet, ha, hp, he, if_true, Bool.false_eq_true, if_false]

theorem boundaryQuiet_straight (ha : s.asleep = false) (hp : interruptPending s = false) :
    boundaryQuiet s = .proceed s := by
  simp only [boundaryQuiet, ha, hp, Bool.false_eq_true, if_false]

/-- An interrupt is entered exactly where GIE = 1 and there is a request (R186). -/
theorem interruptPending_iff : interruptPending s = true ↔ flagGIE s = true ∧ irq s = true := Bool.and_eq_true_iff

theorem interruptPending_eq_false_iff : interruptPending s = false ↔ flagGIE s = false ∨ irq s = false :=
  Bool.and_eq_false_iff

/-! ### The step where the boundary ends it -/

theorem step_of_settled (hb : boundary s = .settled s1) : step s = .next s1 := by
  simp only [step, hb]

theorem step_of_stop {e : Fault} (hb : boundary s = .stop e) : step s = .fault e := by
  simp only [step, hb]

/-- A state that a step leaves as it is stays as it is for any number of steps. -/
theorem run_of_step_self (h : step s = .next s) (k : Nat) : Host.Core.run core k s = .next s := by
  have hstep : core.step s = .next s := h
  induction k with
  | zero => rfl
  | succ k ih => simp only [Host.Core.run, hstep, ih]

end

/-! ### Interrupt entry by what the push does (R186) -/

section

variable {s : State}

theorem interruptEntry_of_push {st : List Addr13}
    (h : push s.pc (setGie false s) = .ok { setGie false s with stack := st }) :
    interruptEntry s = .ok { s with
      intcon := s.intcon &&& ~~~(1#8 <<< s.params.intconGIE.val), stack := st, pc := s.params.intVector } := by
  rw [interruptEntry, h]
  rfl

theorem interruptEntry_of_room (h : s.stack.length < s.params.stackDepth) :
    interruptEntry s = .ok { s with
      intcon := s.intcon &&& ~~~(1#8 <<< s.params.intconGIE.val), stack := s.pc :: s.stack
      pc := s.params.intVector } := by
  obtain ⟨hroom, _⟩ := stackDiscipline
  exact interruptEntry_of_push (hroom s.pc (setGie false s) h)

theorem interruptEntry_of_full_hardware (hwf : s.params.wf = true) (h : s.stack.length = s.params.stackDepth)
    (ht : s.params.treatment = .hardware) :
    interruptEntry s = .ok { s with
      intcon := s.intcon &&& ~~~(1#8 <<< s.params.intconGIE.val), stack := s.pc :: s.stack.dropLast
      pc := s.params.intVector } := by
  obtain ⟨_, _, hhardware, _⟩ := stackDiscipline
  exact interruptEntry_of_push (hhardware s.pc (setGie false s) hwf h ht)

theorem interruptEntry_of_full_verdict (h : s.stack.length = s.params.stackDepth)
    (ht : s.params.treatment = .verdict) : interruptEntry s = .error (.stackOverflow s.pc) := by
  obtain ⟨_, hverdict, _⟩ := stackDiscipline
  rw [interruptEntry, hverdict s.pc (setGie false s) h ht]

/-- An entry that answers leaves GIE = 0. -/
theorem interruptEntry_flagGIE {t : State} (h : interruptEntry s = .ok t) : flagGIE t = false := by
  rw [interruptEntry_ok h, flagGIE, setBit_getLsbD, if_pos ⟨rfl, s.params.intconGIE.isLt⟩]

end

/-! ### Interrupts and sleep -/

/-- Settles O49: the three cases of the entry's push, and no entry. -/
theorem interruptEntryStep : Obligations.InterruptEntryStep := by
  intro s u harr hawake
  obtain ⟨hrun, _⟩ := stepRunsDecodedInstruction
  refine ⟨fun hgie hirq hvec => ⟨fun i hroom hd => ?room, fun i hwf hfull ht hd => ?fullHardware⟩,
    fun hgie hirq hfull ht => ?fullVerdict, fun hno hpc i hd => ?noEntry⟩
  case room =>
    have hb := boundaryQuiet_of_entry hawake (interruptPending_iff.mpr ⟨hgie, hirq⟩) (interruptEntry_of_room hroom)
    exact hrun s _ i ((boundary_of_arrived harr).trans hb) hvec hd
  case fullHardware =>
    have hb := boundaryQuiet_of_entry hawake (interruptPending_iff.mpr ⟨hgie, hirq⟩)
      (interruptEntry_of_full_hardware hwf hfull ht)
    exact hrun s _ i ((boundary_of_arrived harr).trans hb) hvec hd
  case fullVerdict =>
    have hb := boundaryQuiet_of_entry_error hawake (interruptPending_iff.mpr ⟨hgie, hirq⟩)
      (interruptEntry_of_full_verdict hfull ht)
    exact step_of_stop ((boundary_of_arrived harr).trans hb)
  case noEntry =>
    have hb := boundaryQuiet_straight hawake (interruptPending_eq_false_iff.mpr hno)
    exact hrun s u i ((boundary_of_arrived harr).trans hb) hpc hd

/-- Settles O50: the boundary with its input taken, and the request by its source. -/
theorem interruptRequestFormula : Obligations.InterruptRequestFormula := by
  refine ⟨fun s u harr => ⟨boundary_of_arrived harr, flagGIE_of_arrived harr⟩,
    fun s => ⟨fun hsrc => ?never, fun hsrc => ?line, fun hsrc => ?ref84⟩⟩
  case never | line => simp only [irq, hsrc]
  case ref84 => simp only [irq, hsrc, irqRef84, Bool.or_eq_true, Bool.and_eq_true, or_assoc]

/-- Settles O51: the interrupted pc is on top of the stack that the entry leaves, where RETFIE finds it. -/
theorem interruptRoundTrip : Obligations.InterruptRoundTrip := by
  intro s hroom
  obtain ⟨_, _, _, hreturn, _⟩ := returnsResult
  have hentry := interruptEntry_of_room hroom
  refine ⟨_, hentry, interruptEntry_flagGIE hentry, rfl, fun h hstack => ?_⟩
  obtain ⟨_, _, hretfie⟩ := hreturn s.pc s.stack 0#8 h hstack
  exact hretfie

/-- Settles O52: the boundary settles in the state with its input taken; with no input that is the state itself. -/
theorem sleepHolds : Obligations.SleepHolds := by
  have hstep : ∀ s u : State, Arrived s u → u.asleep = true → irq u = false → step s = .next u :=
    fun s u harr ha hi => step_of_settled ((boundary_of_arrived harr).trans (boundaryQuiet_sleepsOn ha hi))
  exact ⟨fun k s ha hin hi => run_of_step_self (hstep s s (.inl ⟨hin, rfl⟩) ha hi) k, hstep⟩

/-- Settles O53: the quiet boundary wakes the core; where GIE is bit 7, the flags that rise and the enable bits make
REF84's request true. -/
theorem wakeByInterrupt : Obligations.WakeByInterrupt := by
  obtain ⟨hrun, _⟩ := stepRunsDecodedInstruction
  obtain ⟨_, hrequest⟩ := interruptRequestFormula
  refine ⟨fun s u i harr ha hi hpc hd => ?wake, fun x rest s u htook hsrc hgie => ?flags⟩
  case wake => exact hrun s _ i ((boundary_of_arrived harr).trans (boundaryQuiet_wakes ha hi)) hpc hd
  case flags =>
    obtain rfl := eq_raiseFlags_of_took htook
    obtain ⟨hT0IF, hINTF, hRBIF⟩ := x.flags_bits
    obtain ⟨_, _, href84⟩ := hrequest (raiseFlags x { s with inputs := rest })
    simp only [href84 hsrc, raiseFlags_intcon_bit, hT0IF, hINTF, hRBIF, hgie, raiseFlags_eeif]
    refine ⟨fun hflag hen => ?timer0, fun hflag hen => ?pinInt, fun hflag hen => ?portB, fun hflag hen => ?eeprom⟩
    case timer0 => exact .inl (by simp [hflag, hen])
    case pinInt => exact .inr (.inl (by simp [hflag, hen]))
    case portB => exact .inr (.inr (.inl (by simp [hflag, hen])))
    case eeprom => exact .inr (.inr (.inr (by simp [hflag, hen])))

/-! ### The watchdog (R190) -/

/-- A reset keeps bits 4 to 0 of STATUS and clears the bank bits. -/
theorem resetCore_bit (s : State) (j : Nat) :
    (resetCore s).status.getLsbD j = if j < 5 then s.status.getLsbD j else false := by
  have hmask : (0x1F#8).getLsbD j = decide (j < 5) := by
    by_cases hj : j < 8
    · interval_cases j <;> rfl
    · rw [BitVec.getLsbD_of_ge _ _ (Nat.le_of_not_lt hj), eq_comm, decide_eq_false_iff_not]
      omega
  rw [resetCore_status, BitVec.getLsbD_and, hmask]
  by_cases hj : j < 5 <;> simp [hj]

/-- The flags lie below bit 5, so every reset keeps them. -/
theorem resetCore_flags (s : State) :
    flagC (resetCore s) = flagC s ∧ flagDC (resetCore s) = flagDC s ∧ flagZ (resetCore s) = flagZ s := by
  simp only [flagC, flagDC, flagZ, resetCore_bit, resetCore_params, Fin.is_lt, if_true, and_self]

/-- A reset that then sets TO and PD leaves the bank bits 0 and C, DC, Z as before. -/
theorem setToPd_resetCore_bits (vTO vPD : Bool) {s : State} (hwf : s.params.wf = true) :
    (∀ j, 5 ≤ j → (setToPd vTO vPD (resetCore s)).status.getLsbD j = false) ∧
      flagC (setToPd vTO vPD (resetCore s)) = flagC s ∧ flagDC (setToPd vTO vPD (resetCore s)) = flagDC s ∧
      flagZ (setToPd vTO vPD (resetCore s)) = flagZ s := by
  obtain ⟨_, _, hC, hDC, hZ⟩ := setToPd_flags vTO vPD (s := resetCore s) hwf
  obtain ⟨hC', hDC', hZ'⟩ := resetCore_flags s
  refine ⟨fun j hj => ?bank, hC.trans hC', hDC.trans hDC', hZ.trans hZ'⟩
  have hTO := s.params.statusTO.isLt
  have hPD := s.params.statusPD.isLt
  rw [setToPd_bit, resetCore_params, if_neg (by omega), if_neg (by omega), resetCore_bit, if_neg (by omega)]

section

variable {s : State}

theorem boundaryTimeout_awake (hw : s.params.wdtEnabled = true) (ha : s.asleep = false) :
    boundaryTimeout s = .settled (watchdogReset s) := by
  simp only [boundaryTimeout, hw, ha, if_true, Bool.false_eq_true, if_false]

theorem boundaryTimeout_asleep (hw : s.params.wdtEnabled = true) (ha : s.asleep = true) :
    boundaryTimeout s =
      .proceed { s with asleep := false, status := s.status &&& ~~~(1#8 <<< s.params.statusTO.val) } := by
  simp only [boundaryTimeout, hw, ha, if_true]
  rfl

theorem boundaryTimeout_disabled (hw : s.params.wdtEnabled = false) : boundaryTimeout s = boundaryQuiet s := by
  simp only [boundaryTimeout, hw, Bool.false_eq_true, if_false]

/-- The step looks at a state through its boundary alone. -/
theorem step_congr {t : State} (h : boundary s = boundary t) : step s = step t := by
  simp only [step, h]

end

/-- Settles O54: the three cases of `boundaryTimeout`, from the state with the input taken. -/
theorem watchdogTimeout : Obligations.WatchdogTimeout := by
  intro x rest s u htook hevent
  obtain ⟨hrun, _⟩ := stepRunsDecodedInstruction
  have hb := boundary_of_took_timeout htook hevent
  obtain rfl := eq_raiseFlags_of_took htook
  refine ⟨fun hwf hw ha => ⟨_, step_of_settled (hb.trans (boundaryTimeout_awake hw ha)), ?reset⟩,
    fun hw ha hpc i hd => ?wake, fun hw => step_congr ?none⟩
  case reset =>
    obtain ⟨hTO, hPD, _⟩ :=
      setToPd_flags false true (s := resetCore (raiseFlags x { s with inputs := rest })) hwf
    refine ⟨?_, hTO, hPD, setToPd_resetCore_bits false true hwf⟩
    have hawake : (raiseFlags x { s with inputs := rest }).asleep = false := ha
    simp only [hawake]
    rfl
  case wake =>
    have hwake := hb.trans (boundaryTimeout_asleep hw ha)
    exact (hrun s _ i hwake hpc hd :)
  case none =>
    have hquiet : boundary { s with inputs := { x with event := none } :: rest } =
        boundaryQuiet (raiseFlags x { s with inputs := rest }) :=
      boundary_of_took_no_event (x := { x with event := none }) ⟨rfl, rfl⟩ rfl
    have hoff := hb.trans (boundaryTimeout_disabled hw)
    exact hoff.trans hquiet.symm

end Sys2Proof.Machine

/-! SUPPORT. The resets that the platform calls for, the ended run, and the cycle counts: what each reset leaves, why a
GOTO to itself stays, which cycles a skip and a write to PCL take. -/

namespace Sys2Proof.Machine

open Sys2Proof.Claims

/-! ### The power-on reset and the external reset (R210) -/

section

variable {x : PlatformInput} {rest : List PlatformInput} {s u : State}

/-- A power-on reset ends the step, whatever else the input brings and the core was doing. -/
theorem step_of_took_powerOnReset (h : Took x rest s u) (he : x.event = some .powerOnReset) :
    step s = .next (powerOnState u) :=
  step_of_settled (by rw [boundary_of_took h, eq_raiseFlags_of_took h, deliver, he])

/-- So does an external reset. -/
theorem step_of_took_externalReset (h : Took x rest s u) (he : x.event = some .externalReset) :
    step s = .next (externalResetState u) :=
  step_of_settled (by rw [boundary_of_took h, eq_raiseFlags_of_took h, deliver, he])

/-- TO and PD are the only bits of STATUS that a power-on reset sets (R41). -/
theorem resetStatus_bit (p : Params) (j : Nat) :
    p.resetStatus.getLsbD j = (decide (p.statusTO.val = j) || decide (p.statusPD.val = j)) := by
  have hTO := p.statusTO.isLt
  have hPD := p.statusPD.isLt
  rw [Params.resetStatus, BitVec.getLsbD_or, oneBit_getLsbD (by omega), oneBit_getLsbD (by omega)]

theorem powerOnState_status_bits (s : State) :
    flagTO (powerOnState s) = true ∧ flagPD (powerOnState s) = true ∧
      ∀ j, 5 ≤ j → (powerOnState s).status.getLsbD j = false := by
  have hbit (j : Nat) : (powerOnState s).status.getLsbD j =
      (decide (s.params.statusTO.val = j) || decide (s.params.statusPD.val = j)) := resetStatus_bit s.params j
  have hTO := s.params.statusTO.isLt
  have hPD := s.params.statusPD.isLt
  refine ⟨(hbit _).trans ?setTO, (hbit _).trans ?setPD, fun j hj => (hbit j).trans ?bank⟩
  case setTO => exact Bool.or_eq_true_iff.mpr (.inl (decide_eq_true rfl))
  case setPD => exact Bool.or_eq_true_iff.mpr (.inr (decide_eq_true rfl))
  case bank => rw [decide_eq_false (by omega), decide_eq_false (by omega), Bool.or_false]

/-- INTCON is 0 after a power-on reset, so GIE is 0 whichever bit it is. -/
theorem powerOnState_intcon_bit (s : State) (j : Nat) : (powerOnState s).intcon.getLsbD j = false := BitVec.getLsbD_zero

end

/-- Settles O55: both resets settle the boundary; STATUS by `resetStatus_bit` and by what `resetCore` keeps of it. -/
theorem resetEvents : Obligations.ResetEvents := by
  intro x rest s u htook
  refine ⟨fun he => ⟨_, step_of_took_powerOnReset htook he, ?powerOn⟩,
    fun he hwf => ⟨_, step_of_took_externalReset htook he, ?external⟩⟩
  case powerOn =>
    obtain ⟨hTO, hPD, hbank⟩ := powerOnState_status_bits u
    have hintcon := powerOnState_intcon_bit u
    obtain ⟨_, rfl⟩ := htook
    exact ⟨rfl, rfl, rfl, hintcon _, hintcon 6, hintcon 5, hintcon 4, hintcon 3, rfl, hTO, hPD, hbank, fun _ => rfl, rfl,
      rfl, rfl, rfl, rfl, rfl⟩
  case external =>
    obtain ⟨_, rfl⟩ := htook
    exact ⟨rfl, setToPd_resetCore_bits _ _ hwf⟩

/-! ### The ended run (R217) -/

section

variable {s : State}

/-- The parts of R217's condition. -/
theorem runEnded_iff : runEnded s = true ↔
    s.asleep = false ∧ s.pc.toNat < s.params.progWords ∧ (flagGIE s = false ∨ s.params.irqSource = .never) ∧
      ∃ k, decode (progRead s.pc s) = some (.goto k) ∧ jumpTarget k s = s.pc := by
  simp only [runEnded, Bool.and_eq_true, Bool.not_eq_true', decide_eq_true_eq, Bool.or_eq_true, beq_iff_eq, and_assoc]
  refine and_congr_right fun _ => and_congr_right fun _ => and_congr_right fun _ => ?goto
  split
  · next k hd => simp [hd]
  · next hd => simpa using fun k hk => absurd hk (hd k)

/-- No interrupt is entered where GIE is 0 or `irq` is constantly false. -/
theorem interruptPending_eq_false_of_never (h : flagGIE s = false ∨ s.params.irqSource = .never) :
    interruptPending s = false :=
  interruptPending_eq_false_iff.mpr (h.imp_right fun hsrc => by rw [irq, hsrc])

/-- The GOTO at pc jumps to pc itself. -/
theorem step_of_runEnded (h : runEnded s = true) (hin : s.inputs = []) : step s = .next s := by
  obtain ⟨hawake, hpc, hno, k, hd, htarget⟩ := runEnded_iff.mp h
  obtain ⟨hrun, _⟩ := stepRunsDecodedInstruction
  have hb := boundary_of_undisturbed ⟨hin, hawake, interruptPending_eq_false_of_never hno⟩
  calc step s
      _ = exec (.goto k) { s with pc := s.pc + 1#13 } := hrun s s _ hb hpc hd
      _ = .next { s with pc := jumpTarget k s } := rfl
      _ = .next s := by rw [htarget]

end

/-- Settles O59: one step leaves the state as it is, so any number does. -/
theorem endedRunStays : Obligations.EndedRunStays :=
  fun k _ h hin => run_of_step_self (step_of_runEnded h hin) k

/-! ### The cycle counts (R215) -/

section

variable {i : Instr} {f : FileAddr} {d : Dest} {b : BitPos} {s s1 t u : State} {v : Byte}

/-- A write to PCL takes 2 cycles, whatever instruction makes it. -/
theorem cycles_of_writesPcl (h : writesPcl i s = true) : cycles i s t = 2 := by
  cases i with
  | call | goto | retfie | retlw | ret => rfl
  | btfsc | btfss => cases h
  | decfsz | incfsz => exact if_neg fun ⟨_, hno⟩ => Bool.false_ne_true (hno.symm.trans h)
  | _ => exact if_pos h

theorem cycles_btfsc (hread : fileRead f s = .ok (v, s1)) (h : exec (.btfsc f b) s = .next t) :
    cycles (.btfsc f b) s t = if v.getLsbD b.toNat then 1 else 2 := by
  obtain ⟨hstay, hskip⟩ := cycles_test (b := b) (.inl rfl) hread
  cases (btfsc_of_read hread b).symm.trans h
  rw [apply_ite (cycles (.btfsc f b) s), hstay, hskip]

theorem cycles_btfss (hread : fileRead f s = .ok (v, s1)) (h : exec (.btfss f b) s = .next t) :
    cycles (.btfss f b) s t = if v.getLsbD b.toNat then 2 else 1 := by
  obtain ⟨hstay, hskip⟩ := cycles_test (b := b) (.inr rfl) hread
  cases (btfss_of_read hread b).symm.trans h
  rw [apply_ite (cycles (.btfss f b) s), hstay, hskip]

/-- A written destination moves the program counter only where it is PCL. -/
theorem writeDest_pc {fl : FlagWrites} {r : Byte} (h : writeDest fl d f r s = .ok t)
    (hdest : ¬(d = .f ∧ effCell f s = .pcl)) : t.pc = s.pc := by
  cases d with
  | w => cases h; rfl
  | f => rw [writeCell_eq h, cellWritten_pc fl fun hc => hdest ⟨rfl, hc⟩]

/-- DECFSZ and INCFSZ that do not write PCL: 1 cycle, and 2 with the skip. -/
theorem cycles_skipCounter (hi : i = .decfsz f d ∨ i = .incfsz f d) (hdest : ¬(d = .f ∧ effCell f s = .pcl))
    (hpc : u.pc = s.pc) : cycles i s u = 1 ∧ cycles i s (skip u) = 2 := by
  have hwrites : writesPcl i s = false := by
    rw [← Bool.not_eq_true, writesPcl_iff]
    rintro ⟨g, hg, hcell⟩
    rcases hi with rfl | rfl <;> cases d <;> cases hg <;> exact hdest ⟨rfl, hcell⟩
  have hcycles (t : State) : cycles i s t = if t.pc = u.pc then 1 else 2 := by
    rcases hi with rfl | rfl <;> simp only [cycles, hwrites, hpc, and_true]
  exact ⟨by rw [hcycles, if_pos rfl], by rw [hcycles, if_neg (skip_pc_ne u)]⟩

/-- DECFSZ and INCFSZ skip where the result is zero (R117, R119). -/
theorem cycles_of_skipOp (hi : i = .decfsz f d ∨ i = .incfsz f d) (hdest : ¬(d = .f ∧ effCell f s = .pcl))
    (hread : fileRead f s = .ok (v, s1)) {op : Byte → Byte × FlagWrites} (h : skipOp f d op s = .ok t) :
    cycles i s t = if (op v).1 = 0#8 then 2 else 1 := by
  have hform : ¬(d = .f ∧ fileCell f s = .pcl) :=
    fun ⟨hd, hcell⟩ => hdest ⟨hd, effCell_of_direct hcell nofun⟩
  obtain ⟨s2, hw, hskipOp⟩ := skipOp_of_read hform hread op
  have hpc : s2.pc = s.pc := by
    rw [writeDest_pc hw (by rwa [effCell_after_read hread]), fileRead_pc hread]
  obtain ⟨hstay, hskip⟩ := cycles_skipCounter (u := applyFlags (op v).2 s2) hi hdest hpc
  cases hskipOp.symm.trans h
  rw [apply_ite (cycles i s), hstay, hskip]

end

/-- Settles O60: the skips by what the read operand makes them do, the writes to PCL by `cycles_of_writesPcl`. -/
theorem cycleCounts : Obligations.CycleCounts := by
  refine ⟨fun k a s t => ⟨rfl, rfl, rfl, rfl, rfl⟩,
    fun f b v s s1 t hread => ⟨cycles_btfsc hread, cycles_btfss hread,
      fun d hdest => ⟨fun h => ?decfsz, fun h => ?incfsz⟩⟩,
    fun f s t hcell => ?pcl⟩
  case decfsz =>
    rw [cycles_of_skipOp (.inl rfl) hdest hread (toOutcome_next h)]
    simp only [sub_one_eq_zero_iff]
  case incfsz =>
    rw [cycles_of_skipOp (.inr rfl) hdest hread (toOutcome_next h)]
    simp only [add_one_eq_zero_iff]
  case pcl =>
    have htwo (i : Instr) (hdest : fileDest i = some f) : cycles i s t = 2 :=
      cycles_of_writesPcl ((writesPcl_iff i s).mpr ⟨f, hdest, hcell⟩)
    exact ⟨htwo _ rfl, htwo _ rfl, htwo _ rfl, htwo _ rfl, htwo _ rfl⟩

end Sys2Proof.Machine
